-- ==== Sys2Proof/Word.lean ====
section
/-! DEFINITION. The one word type of SRBB: the byte of a command or response frame (spec/30_encoding.md R95).
Everything else the spec treats as a mathematical integer (00_scope R11, R10) and is a Nat or an Int here. -/

namespace Sys2Proof

/-- One byte of a frame; bit 7 is the most significant (30_encoding R95). -/
abbrev Byte := BitVec 8

end Sys2Proof
end

