-- ==== Sys2Proof/Config.lean ====
section
/-! DEFINITION. The parameters of the block (spec/00_scope.md R9, R10; 70_reset_and_hazards.md R262;
92_eei_decisions.md "Open parameters"). Free values are constants without a
body. The rest of what the environment leaves open is not here: it is plain data of State that every statement
quantifies over (the PinController's answers, the edges a failing write may cause, the instant of a reset), see
notes/assumptions/3.md, 4.md and 7.md. -/

namespace Sys2Proof.Config

/-- `BITS_PER_STAGE`: each register of the chain contributes 8 bits (R9; UNVERIFIED, notes/assumptions/19.md). -/
def bitsPerStage : Nat := 8

/-- `T_SETTLE` in milliseconds: a parameter whose default, 10, the spec calls unaudited, so its value is free here;
no rule depends on it (R9, R262, 93_implementation_defined U18; UNVERIFIED, notes/assumptions/19.md). -/
opaque settleMs : Nat

/-- Whether the `clear` pin comes up `LOW` when it has just been configured, by the count of trace items before that
transaction: the level of a fresh output is any value, so this has no body (20_memory R53, 70_reset_and_hazards R252,
93_implementation_defined U7; notes/assumptions/21.md). -/
opaque freshClearLow : Nat → Bool

/-- `PIN_ID_MAX`: a limit of the byte encoding only (R10, D3). -/
def pinIdMax : Nat := 255

/-- `NS_MAX`: the largest slave count the encoding carries (R10, D3). -/
def nsMax : Int := 127

/-- The smallest slave count the signed byte of the encoding carries (30_encoding R98). -/
def nsMin : Int := -128

/-- `LEN_MAX`: the most data bytes a WRITE frame carries (R10, D3). -/
def lenMax : Nat := 255

end Sys2Proof.Config
end

