-- ==== Sys2Proof/Syntax.lean ====
section
/-! DEFINITION. The five abstract commands (spec/30_encoding.md R94), one constructor per row of
spec/opcode_table.json. Operands have the document's own types: pin identifiers and data are unsigned integers, the
slave count is an integer (00_scope R10); the bounds of the byte encoding are WellFormed's matter. `Pulse` is an
internal primitive with no encoding (R94) and so no constructor. -/

namespace Sys2Proof

inductive Instr where
  /-- `CONSTRUCT serial_in, shift_clock, latch_clock, clear, num_slaves` (40_construct_capacity R120). -/
  | construct (serialIn shiftClock latchClock clearPin : Nat) (numSlaves : Int)
  /-- `CAPACITY` (40_construct_capacity R130). -/
  | capacity
  /-- `CLEAR` (41_clear R140). -/
  | clear
  /-- `WRITE data` (42_write R150). -/
  | write (data : Nat)
  /-- `DESTROY` (43_destroy R170). -/
  | destroy
deriving DecidableEq, Repr

end Sys2Proof
end

