-- ==== Sys2Proof/WellFormed.lean ====
section
/-! DEFINITION. Which commands the byte encoding can carry (spec/00_scope.md R10, 30_encoding.md R97 to R99): the
bounds are properties of the frames alone and no meaning checks them. -/

namespace Sys2Proof

/-- A pin identifier fits its byte (R10: `PIN_ID_MAX = 255`). -/
def pinFits (p : Nat) : Bool := p ≤ Config.pinIdMax

/-- The slave count fits its signed byte (30_encoding R98: range -128 to 127). -/
def slavesFit (ns : Int) : Bool := Config.nsMin ≤ ns && ns ≤ Config.nsMax

/-- The data fits `LEN_MAX` bytes (R10: `data < 2^2040`). -/
def dataFits (data : Nat) : Bool := data < 256 ^ Config.lenMax

def Instr.wellFormed : Instr → Bool
  | .construct serialIn shiftClock latchClock clearPin numSlaves =>
    pinFits serialIn && pinFits shiftClock && pinFits latchClock && pinFits clearPin && slavesFit numSlaves
  | .capacity => true
  | .clear => true
  | .write data => dataFits data
  | .destroy => true

end Sys2Proof
end

