-- ==== Sys2Proof/Decode.lean ====
section
/-! DEFINITION. Command frames (spec/30_encoding.md R95 to R101, R106): the decoder, total on every byte string and
rejecting by name, the encoder written from the same tables, and the numbering of spec/opcode_table.json
(bit 0 is the least significant bit of byte 0). -/

namespace Sys2Proof

/-- Why a frame is `Illegal` (R101). The response is `IllegalCommand` whichever it is. -/
inductive DecodeError where
  /-- The frame is empty. -/
  | emptyFrame
  /-- Byte 0 is 0x00 or in 0x06..0xFF. -/
  | reservedOpcode
  /-- The length differs from the one R100 expects. -/
  | wrongLength
deriving DecidableEq, Repr

/-! The opcodes of R96. -/

def opConstruct : Byte := 0x01#8
def opCapacity : Byte := 0x02#8
def opClear : Byte := 0x03#8
def opWrite : Byte := 0x04#8
def opDestroy : Byte := 0x05#8

/-- `zext_8` (00_scope R11): a pin identifier from its byte (R98). -/
def zext8 (b : Byte) : Nat := b.toNat

/-- `sext_8` (00_scope R11): the slave count from its byte (R98). -/
def sext8 (b : Byte) : Int := b.toInt

/-- The value of big-endian data bytes, 0 for none (R99). -/
def beValue (ds : List Byte) : Nat := ds.foldl (fun v d => v * 256 + d.toNat) 0

/-- The length R100 expects of a frame, from its first one or two bytes; none for an empty frame and for a reserved
opcode. A WRITE frame without its `LEN` byte is expected to have at least 2 bytes. -/
def expectedLength : List Byte → Option Nat
  | [] => none
  | op :: rest =>
    if op = opConstruct then some 6
    else if op = opCapacity ∨ op = opClear ∨ op = opDestroy then some 1
    else if op = opWrite then some (2 + (rest.headD 0#8).toNat)
    else none

/-- The operands of a CONSTRUCT frame (format `FC`, R97, R98). -/
def decodeConstruct : List Byte → Except DecodeError Instr
  | [a, b, c, d, n] => .ok (.construct (zext8 a) (zext8 b) (zext8 c) (zext8 d) (sext8 n))
  | _ => .error .wrongLength

/-- A frame with nothing after its opcode (format `F0`, R95). -/
def decodeBare (i : Instr) : List Byte → Except DecodeError Instr
  | [] => .ok i
  | _ => .error .wrongLength

/-- The operand of a WRITE frame (format `FW`, R99). -/
def decodeWrite : List Byte → Except DecodeError Instr
  | [] => .error .wrongLength
  | len :: ds => if ds.length = len.toNat then .ok (.write (beValue ds)) else .error .wrongLength

/-- The decoder of R92, R96, R100, R101. -/
def decode : List Byte → Except DecodeError Instr
  | [] => .error .emptyFrame
  | op :: rest =>
    if op = opConstruct then decodeConstruct rest
    else if op = opCapacity then decodeBare .capacity rest
    else if op = opClear then decodeBare .clear rest
    else if op = opWrite then decodeWrite rest
    else if op = opDestroy then decodeBare .destroy rest
    else .error .reservedOpcode

/-- The bytes of `v`, least significant first, as few as hold it but at least one, at most `fuel`. -/
def leBytes : Nat → Nat → List Byte
  | 0, _ => []
  | fuel + 1, v => if v < 256 then [BitVec.ofNat 8 v] else BitVec.ofNat 8 (v % 256) :: leBytes fuel (v / 256)

/-- The data bytes the assembler emits for `WRITE data`: the shortest form with `LEN >= 1` (R104). -/
def dataBytes (v : Nat) : List Byte := (leBytes Config.lenMax v).reverse

/-- The WRITE frame with exactly these data bytes, the assembler's `WRITE.B` (R104). -/
def writeFrame (ds : List Byte) : List Byte := opWrite :: BitVec.ofNat 8 ds.length :: ds

/-- The frame of a command (R95 to R99, R104). -/
def encode : Instr → List Byte
  | .construct serialIn shiftClock latchClock clearPin numSlaves =>
    [opConstruct, BitVec.ofNat 8 serialIn, BitVec.ofNat 8 shiftClock, BitVec.ofNat 8 latchClock,
      BitVec.ofNat 8 clearPin, BitVec.ofInt 8 numSlaves]
  | .capacity => [opCapacity]
  | .clear => [opClear]
  | .write data => writeFrame (dataBytes data)
  | .destroy => [opDestroy]

/-- The first `n` bytes of a number laid out as spec/opcode_table.json numbers bits: byte 0 least significant. -/
def wordBytes : Nat → Nat → List Byte
  | 0, _ => []
  | n + 1, w => BitVec.ofNat 8 (w % 256) :: wordBytes n (w / 256)

/-- The frame whose first `nbits` bits are `w`: the bytes of `w`, then bytes of zeros up to the length R100 expects
(a frame is delivered with its length, so a row with fewer bits than its frame is filled up). -/
def frameOfWord (nbits w : Nat) : List Byte :=
  let given := wordBytes ((nbits + 7) / 8) w
  given ++ List.replicate ((expectedLength given).getD 0 - given.length) 0#8

/-- The command the decoder reads from a frame numbered as spec/opcode_table.json numbers it. -/
def decodeTableWord (nbits w : Nat) : Option Instr :=
  match decode (frameOfWord nbits w) with
  | .ok i => some i
  | .error _ => none

end Sys2Proof
end

