-- ==== Sys2Proof/Machine/State.lean ====
section
/-! DEFINITION. The state of SRBB and of what its transactions reach (spec/10_state.md, spec/20_memory.md), as plain
data, and the machine after power-up. INVENTORY.md lists every piece with its rule and its reset value. -/

namespace Sys2Proof.Machine

/-- The level of a pin (20_memory R51). -/
inductive Level where
  | low
  | high
deriving DecidableEq, Repr

/-- The four fixed roles of the PinSet, in the document's configuration order (10_state R21). -/
inductive Role where
  | serialIn
  | shiftClock
  | latchClock
  | clear
deriving DecidableEq, Repr

/-- `PIN[0..3]`: the pin identifier that plays each role (10_state R21). -/
structure PinSet where
  serialIn : Nat
  shiftClock : Nat
  latchClock : Nat
  clear : Nat
deriving DecidableEq, Repr

/-- `ST`, the lifecycle state (10_state R24); it has no bit encoding. -/
inductive Lifecycle where
  | uninitialized
  | ready
  | failed
  | released
deriving DecidableEq, Repr

/-- A transaction on the PinController port (20_memory R55). -/
inductive Transaction where
  /-- `Cfg(p)`: `configure_output`. -/
  | cfg (p : Nat)
  /-- `Set(p, l)`: `set_level`. -/
  | set (p : Nat) (l : Level)
  /-- `SetM(ps, l)`: `set_levels`. -/
  | setM (ps : List Nat) (l : Level)
  /-- `Rel(p)`: `release`. -/
  | rel (p : Nat)
deriving DecidableEq, Repr

/-- The answer as SRBB sees it (20_memory R55). -/
inductive Ack where
  | ok
  | err
deriving DecidableEq, Repr

/-- What the environment has in store for one transaction (20_memory R58): a free choice, the model's own data. -/
inductive Answer where
  /-- The PinController answers `ok`. -/
  | ok
  /-- It answers `err`. For a failing `Set` or `SetM` the document does not say whether the pin changed
  (93_implementation_defined U6): `edges` lists the roles, among the addressed pins, on which the active edge or level
  occurred all the same; free. -/
  | err (edges : List Role)
  /-- It never answers (70_reset_and_hazards R251, 93_implementation_defined U11). -/
  | silent
deriving DecidableEq, Repr

/-- The two log events (20_memory R63). -/
inductive LogKind where
  | rollback
  | teardownWarning
deriving DecidableEq, Repr

/-- The responses (30_encoding R102, R103). -/
inductive Response where
  | ok
  | okValue (value : Nat)
  | invalidArgument
  | pinSetupFailed (i : Nat)
  | pinFault
  | stateError
  | illegalCommand
deriving DecidableEq, Repr

/-- One item of a trace (00_scope R13): a completed transaction with its answer, a settle delay, a log event, or the
response that ends the command. -/
inductive Event where
  | port (t : Transaction) (ack : Ack)
  | wait
  | log (k : LogKind)
  | respond (r : Response)
deriving DecidableEq, Repr

/-- A move of the world outside (30_encoding R90, R91; 70_reset_and_hazards R240): the model's own data. -/
inductive HostMove where
  /-- The host submits a frame. With `resetAfter = some n` the reset input strikes when `n` events of the command have
  completed, or after the response if there are no more than that (93_implementation_defined U15: the cut is free). -/
  | submit (frame : List Byte) (resetAfter : Option Nat)
  /-- The reset input is asserted while the block is idle. -/
  | reset
deriving DecidableEq, Repr

/-- What is known of one pin: `OWNED[p]` (20_memory R52; none: no known value) and `LEVEL[p]` (20_memory R53; none: no
value). -/
structure PinCell where
  owned : Option Bool
  level : Option Level
deriving DecidableEq, Repr

/-- What an unlisted pin reads as: not owned by SRBB, no level driven by it (20_memory R52, R53; DEDUCED,
notes/assumptions/12.md). -/
def PinCell.fresh : PinCell := { owned := some false, level := none }

/-- The pin space (20_memory R50, R51), which takes the place of memory: the cells that are not `PinCell.fresh`, with
their identifiers. -/
abbrev PinSpace := List (Nat × PinCell)

/-- The state. Every field is plain data. -/
structure State where
  /-- `ST` (10_state R24). -/
  st : Lifecycle
  /-- `PIN[0..3]` (10_state R21). -/
  pin : PinSet
  /-- `NS` (10_state R22). -/
  ns : Nat
  /-- `CAP` (10_state R23). -/
  cap : Nat
  /-- `DSR` (10_state R28). -/
  dsr : Nat
  /-- `MASK` (10_state R29). -/
  mask : Nat
  /-- `BITCNT` (10_state R31). -/
  bitcnt : Nat
  /-- `ACQ` (10_state R31). -/
  acq : Nat
  /-- `SEQ` (10_state R30). -/
  seq : Nat
  /-- `OWNED` and `LEVEL` of the pins (20_memory R52, R53). -/
  space : PinSpace
  /-- `SHIFT` of the load (20_memory R70); none: unknown (R71). -/
  shift : Option Nat
  /-- `OUT` of the load (20_memory R70); none: unknown (R71). -/
  out : Option Nat
  /-- Everything issued so far, oldest first, the responses among it (00_scope R13, 30_encoding R93). -/
  trace : List Event
  /-- The model's own: the moves the outside world has still to make. -/
  inbox : List HostMove
  /-- The model's own: the answers of the PinController to come; where the list ends, `ok`. -/
  answers : List Answer
  /-- The model's own: the `SEQ` at which the reset strikes the running command. -/
  cut : Option Nat
deriving DecidableEq, Repr

/-- Why the machine stops. -/
inductive Fault where
  /-- DEDUCED, notes/assumptions/5.md. Raised by any command whose transaction is never answered while no reset is scheduled: SRBB waits for ever
  (70_reset_and_hazards R251; 93_implementation_defined U11, "stuck"). Safe: nothing follows it in the hardware but a
  reset, which the host's move can schedule. -/
  | noAnswer
deriving DecidableEq, Repr

/-- Why a command has no meaning. -/
inductive Refusal where
  /-- Raised by nothing: kept for an arm of `exec` that has no meaning yet. Safe. -/
  | notModelled (mnemonic : String)
deriving DecidableEq, Repr

/-- What a command or a step answers. -/
abbrev StepResult := Host.Outcome State Fault Refusal

/-- The PinSet of a block that holds no PinSet (10_state R34 gives no value; DESIGN CHOICE, notes/assumptions/1.md). -/
def PinSet.unset : PinSet := { serialIn := 0, shiftClock := 0, latchClock := 0, clear := 0 }

/-- The machine after power-up (10_state R34, 70_reset_and_hazards R240, R241, R243): `Uninitialized`; registers that
the spec says hold no value are 0 (DESIGN CHOICE, notes/assumptions/1.md, 2.md); no pin owned, no level driven, the
load unknown; nothing issued, nothing submitted. -/
def State.reset : State :=
  { st := .uninitialized, pin := .unset, ns := 0, cap := 0, dsr := 0, mask := 0, bitcnt := 0, acq := 0, seq := 0,
    space := [], shift := none, out := none, trace := [], inbox := [], answers := [], cut := none }

end Sys2Proof.Machine
end

