-- ==== Sys2Proof/Machine/Operands.lean ====
section
/-! DEFINITION. The operands of transactions and commands: the pin each role addresses (spec/60_exceptions.md R223: an
effective address is a pin identifier taken unchanged from `PIN[k]`), the level of a data bit, the mask and the shift of
WRITE, the capacity formula and the two argument checks. -/

namespace Sys2Proof.Machine

/-- `PIN[k]` (10_state R21). -/
def PinSet.at (ps : PinSet) : Role → Nat
  | .serialIn => ps.serialIn
  | .shiftClock => ps.shiftClock
  | .latchClock => ps.latchClock
  | .clear => ps.clear

/-- The four pins in PinSet order (10_state R21; 20_memory R59). -/
def PinSet.toList (ps : PinSet) : List Nat := [ps.serialIn, ps.shiftClock, ps.latchClock, ps.clear]

/-- The four identifiers are pairwise distinct: what the caller owes and SRBB does not check (10_state R21,
93_implementation_defined U2). -/
def PinSet.distinct (ps : PinSet) : Bool := decide ps.toList.Nodup

/-- The role a pin plays, if any. -/
def PinSet.roleOf (ps : PinSet) (p : Nat) : Option Role :=
  [Role.serialIn, .shiftClock, .latchClock, .clear].find? (fun r => ps.at r = p)

/-- `lv(b)` (42_write R151). -/
def levelOfBit (b : Bool) : Level := if b then .high else .low

/-- The bit a level stands for (20_memory R73: `LOW` = 0, `HIGH` = 1). -/
def bitOfLevel : Level → Nat
  | .low => 0
  | .high => 1

/-- `CAP = (NS + 1) * 8` (10_state R23). -/
def capacityOf (ns : Nat) : Nat := (ns + 1) * Config.bitsPerStage

/-- `MASK = 1 << (CAP - 1)` (10_state R29). -/
def msbMask (cap : Nat) : Nat := 1 <<< (cap - 1)

/-- The bit WRITE tests: whether `DSR & MASK` is nonzero (42_write R150). -/
def maskedBit (dsr mask : Nat) : Bool := dsr &&& mask != 0

/-- `(DSR << 1) mod 2^CAP` (10_state R28). -/
def shiftedDsr (dsr cap : Nat) : Nat := (dsr <<< 1) % 2 ^ cap

/-- The argument check of CONSTRUCT (40_construct_capacity R122). -/
def badSlaveCount (numSlaves : Int) : Bool := numSlaves < 0

/-- The argument check of WRITE (42_write R153): `data >= 2^CAP`. -/
def tooWide (data cap : Nat) : Bool := 2 ^ cap ≤ data

end Sys2Proof.Machine
end

