-- ==== Sys2Proof/Machine/Flags.lean ====
section
/-! DEFINITION. The two flags of SRBB (spec/10_state.md R27). There are no condition codes and no arithmetic flags. Both
flags are functions of `ST` and have no storage of their own, so the commands write them by writing `ST`. -/

namespace Sys2Proof.Machine

/-- `CONSTRUCTED`: construction fully succeeded (10_state R27). -/
def State.constructed (s : State) : Bool := s.st = .ready || s.st = .released

/-- `TORN_DOWN`: teardown already ran (10_state R27). -/
def State.tornDown (s : State) : Bool := s.st = .released

end Sys2Proof.Machine
end

