-- ==== Sys2Proof/Machine/Ops.lean ====
section
/-! DEFINITION. The named operations every command is built from: the pin space, the load, issuing a transaction and
the other events, the strobes, the teardown block `try`, raising an error and ending a command, the hardware reset, and
fetching the host's next move. -/

namespace Sys2Proof.Machine

/-! ### The pin space (spec/20_memory.md R50 to R53) -/

/-- What the pin space holds for a pin. -/
def PinSpace.get : PinSpace → Nat → PinCell
  | [], _ => .fresh
  | (q, c) :: m, p => if q = p then c else PinSpace.get m p

/-- The pin space without a pin's cell. -/
def PinSpace.erase (m : PinSpace) (p : Nat) : PinSpace := m.filter (fun e => e.1 ≠ p)

/-- A cell put in its place, before the first larger identifier. -/
def PinSpace.place : PinSpace → Nat → PinCell → PinSpace
  | [], p, c => [(p, c)]
  | (q, d) :: m, p, c => if p < q then (p, c) :: (q, d) :: m else (q, d) :: PinSpace.place m p c

/-- One write of a cell, keeping the canonical form: a cell equal to `PinCell.fresh` is not listed. -/
def PinSpace.put (m : PinSpace) (p : Nat) (c : PinCell) : PinSpace :=
  if c = .fresh then m.erase p else (m.erase p).place p c

/-- The canonical form: identifiers strictly rising, no cell equal to what an unlisted pin reads as. -/
abbrev PinSpace.wf (m : PinSpace) : Prop :=
  m.Pairwise (fun a b => a.1 < b.1) ∧ ∀ e ∈ m, e.2 ≠ PinCell.fresh

/-- `OWNED[p]` (20_memory R52). -/
def State.owned (s : State) (p : Nat) : Option Bool := (s.space.get p).owned

/-- `LEVEL[p]` (20_memory R53). -/
def State.level (s : State) (p : Nat) : Option Level := (s.space.get p).level

/-- Writes `OWNED[p]`. -/
def State.setOwned (s : State) (p : Nat) (o : Option Bool) : State :=
  { s with space := s.space.put p { owned := o, level := s.level p } }

/-- Writes `LEVEL[p]`. -/
def State.setLevel (s : State) (p : Nat) (l : Option Level) : State :=
  { s with space := s.space.put p { owned := s.owned p, level := l } }

/-! ### The load (spec/20_memory.md R70 to R77) -/

/-- Nothing is known of the load any more. -/
def State.forgetLoad (s : State) : State := { s with shift := none, out := none }

/-- `SHIFT` after an active edge of the shift clock (R73; PRESUMED low-to-high edge, notes/assumptions/10.md): `((SHIFT << 1) + b) mod 2^CAP`, `b` the level of
`serial_in`; unchanged while `clear` is `LOW` (R72); unknown where an input is unknown
(DESIGN CHOICE, notes/assumptions/9.md). -/
def State.shiftedIn (s : State) : Option Nat :=
  match s.level s.pin.clear with
  | some .low => s.shift
  | some .high =>
    match s.shift, s.level s.pin.serialIn with
    | some v, some l => some (((v <<< 1) + bitOfLevel l) % 2 ^ s.cap)
    | _, _ => none
  | none => none

/-- What the active edge or level of a role does to the load (R72 to R74, R76). -/
def State.strobe (s : State) : Role → State
  | .serialIn => s
  | .shiftClock => { s with shift := s.shiftedIn }
  | .latchClock => { s with out := s.shift }
  | .clear => { s with shift := some 0 }

/-- What an active edge that may or may not have occurred does: where the level before is unknown, the register it
writes is unknown (R73, R74 with R53). -/
def State.blurredStrobe (s : State) : Role → State
  | .shiftClock => { s with shift := none }
  | .latchClock => { s with out := none }
  | _ => s

/-- The effect on the load of driving the pin of role `r` from `before` to `l` (R72 to R76): `clear` acts while `LOW`,
the clocks at their low-to-high transition. -/
def State.loadDriven (s : State) (r : Role) (before : Option Level) (l : Level) : State :=
  match r, l, before with
  | .clear, .low, _ => s.strobe .clear
  | .shiftClock, .high, some .low => s.strobe .shiftClock
  | .latchClock, .high, some .low => s.strobe .latchClock
  | .shiftClock, .high, none => s.blurredStrobe .shiftClock
  | .latchClock, .high, none => s.blurredStrobe .latchClock
  | _, _, _ => s

/-- A pin is driven to a level (R53, R57, R72 to R77). With equal identifiers in the PinSet the load model says
nothing (93_implementation_defined U2), so the load becomes unknown (DESIGN CHOICE, notes/assumptions/11.md). -/
def State.drive (s : State) (p : Nat) (l : Level) : State :=
  let driven := s.setLevel p (some l)
  if s.pin.distinct then
    match s.pin.roleOf p with
    | some r => driven.loadDriven r (s.level p) l
    | none => driven
  else driven.forgetLoad

/-- Pins whose write answered `err` (R53, R59, 93_implementation_defined U6): their levels have no value, and the
active edges that occurred all the same are those of `edges` on these pins, one each at most (free values,
notes/assumptions/4.md). -/
def State.driveFailed (s : State) (ps : List Nat) (edges : List Role) : State :=
  let driven := ps.foldl (fun t p => t.setLevel p none) s
  if s.pin.distinct then
    (edges.dedup.filter (fun r => ps.contains (s.pin.at r))).foldl State.strobe driven
  else driven.forgetLoad

/-- `SHIFT` once pin `p` is a fresh output: 0 where that pin is `clear` and comes up `LOW`, which clears the load, and
unchanged otherwise (70_reset_and_hazards R252, 20_memory R72, R76; the level a fresh output comes up at is a free
value, notes/assumptions/21.md). -/
def State.freshShift (s : State) (p : Nat) : Option Nat :=
  if p = s.pin.clear ∧ Config.freshClearLow s.trace.length = true then some 0 else s.shift

/-- Pin `p` has just been configured as an output that nothing drives: it has no level (R53), and what it comes up at
acts on the load. -/
def State.comeUp (s : State) (p : Nat) : State :=
  { s.setLevel p none with shift := s.freshShift p }

/-! ### Events (spec/00_scope.md R12, R13; 20_memory.md R55 to R63, R80) -/

/-- How far a command has got. -/
inductive Progress where
  /-- Every transaction so far that had to succeed answered `ok`. -/
  | ok (s : State)
  /-- The last transaction answered `err`. -/
  | failed (s : State)
  /-- The reset input struck: nothing more is issued (70_reset_and_hazards R240). -/
  | abandoned (s : State)
  /-- The last transaction is never answered (70_reset_and_hazards R251). -/
  | hung
deriving DecidableEq, Repr

/-- Go on with `f` if nothing has stopped the command. -/
def Progress.andThen (r : Progress) (f : State → Progress) : Progress :=
  match r with
  | .ok s => f s
  | .failed s => .failed s
  | .abandoned s => .abandoned s
  | .hung => .hung

/-- The answer the PinController gives next; `ok` where the list ends (DESIGN CHOICE, notes/assumptions/3.md). -/
def State.nextAnswer (s : State) : Answer := s.answers.headD .ok

/-- What an answered transaction does to the pins and the load (20_memory R56, R57, R59, R60; DEDUCED details,
notes/assumptions/12.md; the order inside `SetM`, notes/assumptions/20.md). A `Rel` leaves the load as it was (R76);
what becomes of it afterwards, when others may drive the pins, R76 leaves open, and the model keeps `SHIFT` and `OUT`
(DESIGN CHOICE, notes/assumptions/22.md). -/
def State.settled (s : State) : Transaction → Answer → State
  | .cfg p, .ok => (s.setOwned p (some true)).comeUp p
  | .cfg _, _ => s
  | .set p l, .ok => s.drive p l
  | .set p _, .err edges => s.driveFailed [p] edges
  | .set _ _, .silent => s
  | .setM ps l, .ok => ps.foldl (fun t p => t.drive p l) s
  | .setM ps _, .err edges => s.driveFailed ps edges
  | .setM _ _, .silent => s
  | .rel p, .ok => s.setOwned p (some false)
  | .rel p, .err _ => s.setOwned p none
  | .rel _, .silent => s

/-- An event has completed: it is in the trace and `SEQ` has advanced by one (10_state R30). -/
def State.record (s : State) (e : Event) : State := { s with trace := s.trace ++ [e], seq := s.seq + 1 }

/-- The next answer is used up. -/
def State.dropAnswer (s : State) : State := { s with answers := s.answers.tail }

/-- The state after a transaction that answered `ok`. -/
def State.granted (s : State) (t : Transaction) : State :=
  ((s.settled t .ok).record (.port t .ok)).dropAnswer

/-- The state after a transaction that answered `err`. -/
def State.denied (s : State) (t : Transaction) (edges : List Role) : State :=
  ((s.settled t (.err edges)).record (.port t .err)).dropAnswer

/-- Issues a transaction and waits for its answer (20_memory R55, R58, R80). -/
def State.issue (s : State) (t : Transaction) : Progress :=
  if s.cut = some s.seq then .abandoned s
  else
    match s.nextAnswer with
    | .ok => .ok (s.granted t)
    | .err edges => .failed (s.denied t edges)
    | .silent => if s.cut = none then .hung else .abandoned s.dropAnswer

/-- Issues an event that has no answer: a settle delay or a log event (20_memory R63, 60_exceptions R225). -/
def State.emit (s : State) (e : Event) : Progress :=
  if s.cut = some s.seq then .abandoned s else .ok (s.record e)

/-- An item of a fixed event list: a transaction that must succeed, or `Wait(T_SETTLE)`. -/
inductive Act where
  | port (t : Transaction)
  | wait
deriving DecidableEq, Repr

/-- One item of an event list. -/
def State.act (s : State) : Act → Progress
  | .port t => s.issue t
  | .wait => s.emit .wait

/-- An event list in its order, up to the first transaction that answers `err` (00_scope R12, `X!`; 20_memory R80). -/
def State.perform : List Act → State → Progress
  | [], s => .ok s
  | a :: as, s => (s.act a).andThen (State.perform as)

/-! ### The strobes (spec/44_pulse.md R185, R190; 41_clear.md R140) -/

/-- The events of the clear strobe on pin `p` (41_clear R140). -/
def clearActs (p : Nat) : List Act := [.port (.set p .low), .wait, .port (.set p .high)]

/-- The events of `Pulse(p)` (44_pulse R185). -/
def pulseActs (p : Nat) : List Act :=
  [.port (.set p .low), .wait, .port (.set p .high), .wait, .port (.set p .low)]

/-- `ClearSeq!` (41_clear R140, R145). -/
def State.clearSeq (s : State) : Progress := s.perform (clearActs s.pin.clear)

/-- `Pulse!` on the pin of a role (44_pulse R185). -/
def State.pulse (r : Role) (s : State) : Progress := s.perform (pulseActs (s.pin.at r))

/-! ### Best effort (spec/43_destroy.md R174; 40_construct_capacity.md R124) -/

/-- `try`: a step whose transaction answered `err` is logged and the teardown goes on (43_destroy R170, R174). -/
def Progress.orWarn (r : Progress) : Progress :=
  match r with
  | .failed s => s.emit (.log .teardownWarning)
  | .ok s => .ok s
  | .abandoned s => .abandoned s
  | .hung => .hung

/-- An `err` answer is ignored (40_construct_capacity R124). -/
def Progress.orIgnore (r : Progress) : Progress :=
  match r with
  | .failed s => .ok s
  | .ok s => .ok s
  | .abandoned s => .abandoned s
  | .hung => .hung

/-- Releases pins in order, each a step of its own, every failure logged (43_destroy R170, R174). -/
def State.releaseWarning : List Nat → State → Progress
  | [], s => .ok s
  | p :: ps, s => (s.issue (.rel p)).orWarn.andThen (State.releaseWarning ps)

/-- Releases pins in order, every failure ignored (40_construct_capacity R124). -/
def State.releaseIgnoring : List Nat → State → Progress
  | [], s => .ok s
  | p :: ps, s => (s.issue (.rel p)).orIgnore.andThen (State.releaseIgnoring ps)

/-! ### Ending a command (spec/30_encoding.md R93, R102; 60_exceptions.md R210) -/

/-- The response is returned and is the last item of the command's trace (00_scope R13), unless the reset strikes
before it (70_reset_and_hazards R240). -/
def State.respond (s : State) (r : Response) : State :=
  if s.cut = some s.seq then s else { s with trace := s.trace ++ [.respond r] }

/-- `raise E(info)` (60_exceptions R210), the one way an error ends a command: nothing more is issued, nothing is
saved, no control goes to a handler, the response frame for `E` is returned. There is no return from an error
(60_exceptions R211): the block is idle again. -/
def State.raise (s : State) (e : Response) : StepResult := .next (s.respond e)

/-- The end of a command whose events are done: the response `r`, or `PinFault` if a transaction that had to succeed
answered `err` (60_exceptions R206). -/
def Progress.conclude (p : Progress) (r : Response) : StepResult :=
  match p with
  | .ok s => .next (s.respond r)
  | .failed s => s.raise .pinFault
  | .abandoned s => .next s
  | .hung => .fault .noAnswer

/-- `ST` moves (10_state R25). -/
def State.enter (s : State) (st : Lifecycle) : State := { s with st := st }

/-- The bytes of a response frame (30_encoding R102). -/
def Response.frame : Response → List Byte
  | .ok => [0x00#8]
  | .okValue v => [0x00#8, BitVec.ofNat 8 (v / 256), BitVec.ofNat 8 (v % 256)]
  | .invalidArgument => [0x01#8]
  | .pinSetupFailed i => [0x02#8, BitVec.ofNat 8 i]
  | .pinFault => [0x03#8]
  | .stateError => [0x04#8]
  | .illegalCommand => [0x05#8]

/-- The response in a trace item, if it is one. -/
def Event.response? : Event → Option Response
  | .respond r => some r
  | _ => none

/-- The responses returned so far, oldest first (30_encoding R93). -/
def State.responses (s : State) : List Response := s.trace.filterMap Event.response?

/-- The settle delays in a trace. -/
def settleCount (es : List Event) : Nat := es.count .wait

/-- The least time, in milliseconds, that a trace takes: its settle delays (70_reset_and_hazards R260, R261). -/
def minDurationMs (es : List Event) : Nat := settleCount es * Config.settleMs

/-! ### Reset and the host's moves (spec/70_reset_and_hazards.md R240 to R242; 30_encoding.md R90 to R93) -/

/-- The hardware reset (R240 to R242): `ST` is `Uninitialized`, every other register loses its value (the model's 0,
DESIGN CHOICE, notes/assumptions/1.md, 2.md), no transaction is issued, the pins and the load stay as they are. -/
def State.hardwareReset (s : State) : State :=
  { s with
    st := .uninitialized, pin := .unset, ns := 0, cap := 0, dsr := 0, mask := 0, bitcnt := 0, acq := 0, seq := 0,
    cut := none }

/-- A command starts: `SEQ` is 0 (10_state R30); the reset is set to strike at `cut`, if at all. -/
def State.begin (s : State) (cut : Option Nat) : State := { s with seq := 0, cut := cut }

/-- The host's next move and the state without it (30_encoding R91). -/
def State.fetch (s : State) : Option (HostMove × State) :=
  match s.inbox with
  | [] => none
  | m :: rest => some (m, { s with inbox := rest })

/-- The reset that was scheduled into a command strikes: nothing follows it, whatever the command had reached (DEDUCED,
notes/assumptions/7.md). -/
def StepResult.thenReset (r : StepResult) : StepResult :=
  match r with
  | .next s => .next s.hardwareReset
  | .fault f => .fault f
  | .refused x => .refused x

/-- The next frame the host submits is the one numbered as spec/opcode_table.json numbers it. -/
def State.withNextFrame (s : State) (nbits w : Nat) : State :=
  { s with inbox := .submit (frameOfWord nbits w) none :: s.inbox }

end Sys2Proof.Machine
end

