-- ==== Sys2Proof/Machine/Clear.lean ====
section
/-! DEFINITION. CLEAR (spec/41_clear.md). -/

namespace Sys2Proof.Machine

/-- CLEAR (R140 to R144). -/
def execClear (s : State) : StepResult :=
  if s.st ≠ .ready then s.raise .stateError
  else s.clearSeq.conclude .ok

end Sys2Proof.Machine
end

