-- ==== Sys2Proof/Machine/Construct.lean ====
section
/-! DEFINITION. CONSTRUCT and CAPACITY (spec/40_construct_capacity.md). -/

namespace Sys2Proof.Machine

/-- The registers CONSTRUCT writes before its first transaction (R120): `NS`, `CAP`, `PIN[0..3]`; no pin acquired yet
(10_state R31). The load is kept, whichever pins the operands name: that the chain of an earlier lifetime is the one on
the new pins is the model's choice (70_reset_and_hazards R242 speaks of the same pins only; DESIGN CHOICE,
notes/assumptions/23.md). -/
def State.adopt (s : State) (pins : PinSet) (numSlaves : Int) : State :=
  { s with ns := numSlaves.toNat, cap := capacityOf numSlaves.toNat, pin := pins, acq := 0 }

/-- One more pin is acquired (10_state R31). -/
def State.countPin (s : State) : State := { s with acq := s.acq + 1 }

/-- Configures pins in order, counting the acquired ones in `ACQ`, up to the first that answers `err` (R120, R121;
10_state R31). -/
def State.acquire : List Nat → State → Progress
  | [], s => .ok s
  | p :: ps, s => (s.issue (.cfg p)).andThen (fun t => State.acquire ps t.countPin)

/-- Releases the `ACQ` pins acquired so far, then logs the rollback if there was one, then `ST` is `Failed` (R120,
R123, R124). -/
def State.rollback (s : State) : Progress :=
  (s.releaseIgnoring (s.pin.toList.take s.acq)).andThen (fun t =>
    (if t.acq = 0 then .ok t else t.emit (.log .rollback)).andThen (fun u => .ok (u.enter .failed)))

/-- How CONSTRUCT ends once its pins have been asked for (R120, R121). -/
def Progress.concludeConstruct (p : Progress) : StepResult :=
  match p with
  | .failed s => s.rollback.conclude (.pinSetupFailed s.acq)
  | .ok s => Progress.conclude (.ok (s.enter .ready)) .ok
  | .abandoned s => Progress.conclude (.abandoned s) .ok
  | .hung => Progress.conclude .hung .ok

/-- CONSTRUCT (R120 to R128; 60_exceptions R212 for the order of the checks). -/
def execConstruct (serialIn shiftClock latchClock clearPin : Nat) (numSlaves : Int) (s : State) : StepResult :=
  let pins : PinSet := { serialIn := serialIn, shiftClock := shiftClock, latchClock := latchClock, clear := clearPin }
  if s.st ≠ .uninitialized then s.raise .stateError
  else if badSlaveCount numSlaves then s.raise .invalidArgument
  else ((s.adopt pins numSlaves).acquire pins.toList).concludeConstruct

/-- CAPACITY (R130, R131). -/
def execCapacity (s : State) : StepResult :=
  if s.st ≠ .ready then s.raise .stateError
  else Progress.conclude (.ok s) (.okValue s.cap)

end Sys2Proof.Machine
end

