-- ==== Sys2Proof/Machine/Destroy.lean ====
section
/-! DEFINITION. DESTROY (spec/43_destroy.md). -/

namespace Sys2Proof.Machine

/-- Step 3 of the teardown: all four pins low in one bulk transaction (R170, R173). -/
def State.allLow (s : State) : Progress := s.issue (.setM s.pin.toList .low)

/-- The four steps of the teardown, each best effort, then `ST` is `Released` (R170, R171, R173 to R175). -/
def State.teardown (s : State) : Progress :=
  ((((s.clearSeq.orWarn).andThen
    (fun t => (State.pulse .latchClock t).orWarn)).andThen
    (fun t => t.allLow.orWarn)).andThen
    (fun t => t.releaseWarning t.pin.toList)).andThen
    (fun t => .ok (t.enter .released))

/-- DESTROY (R170 to R177): teardown exactly when construction succeeded and teardown has not run (10_state R27),
otherwise nothing; the response is always `OK`. -/
def execDestroy (s : State) : StepResult :=
  if s.constructed && !s.tornDown then s.teardown.conclude .ok
  else Progress.conclude (.ok s) .ok

end Sys2Proof.Machine
end

