-- ==== Sys2Proof/Machine/Write.lean ====
section
/-! DEFINITION. WRITE (spec/42_write.md). -/

namespace Sys2Proof.Machine

/-- `MASK`, `DSR` and `BITCNT` are loaded (R150; 10_state R28, R29, R31). -/
def State.loadShifter (s : State) (data : Nat) : State :=
  { s with mask := msbMask s.cap, dsr := data, bitcnt := s.cap }

/-- The selected bit has been sent: `DSR` moves on and one bit less is to be sent (R150; 10_state R28, R31). -/
def State.nextBit (s : State) : State :=
  { s with dsr := shiftedDsr s.dsr s.cap, bitcnt := s.bitcnt - 1 }

/-- One iteration of WRITE (R150, R154, R155): `serial_in` takes the level of the selected bit, the shift clock is
pulsed, `DSR` moves on. -/
def State.sendBit (s : State) : Progress :=
  ((s.issue (.set s.pin.serialIn (levelOfBit (maskedBit s.dsr s.mask)))).andThen
    (State.pulse .shiftClock)).andThen (fun t => .ok t.nextBit)

/-- `n` iterations of WRITE (R150). -/
def State.sendBits : Nat → State → Progress
  | 0, s => .ok s
  | n + 1, s => s.sendBit.andThen (State.sendBits n)

/-- WRITE (R150 to R162; 60_exceptions R212 for the order of the checks). -/
def execWrite (data : Nat) (s : State) : StepResult :=
  if s.st ≠ .ready then s.raise .stateError
  else if tooWide data s.cap then s.raise .invalidArgument
  else
    (((s.clearSeq.andThen (fun t => .ok (t.loadShifter data))).andThen
      (fun t => t.sendBits t.bitcnt)).andThen (State.pulse .latchClock)).conclude .ok

end Sys2Proof.Machine
end

