-- ==== Sys2Proof/Machine/Dispatch.lean ====
section
/-! DEFINITION. One arm per command: each calls the meaning of its own. -/

namespace Sys2Proof.Machine

def exec (i : Instr) (s : State) : Host.Outcome State Fault Refusal :=
  match i with
  | .construct serialIn shiftClock latchClock clearPin numSlaves => Sys2Proof.Machine.execConstruct serialIn shiftClock latchClock clearPin numSlaves s
  | .capacity => Sys2Proof.Machine.execCapacity s
  | .clear => Sys2Proof.Machine.execClear s
  | .write data => Sys2Proof.Machine.execWrite data s
  | .destroy => Sys2Proof.Machine.execDestroy s

end Sys2Proof.Machine
end

