-- ==== Sys2Proof/Machine/Step.lean ====
section
/-! DEFINITION. One step: the host's next move (spec/30_encoding.md R90 to R93), a whole command at a time. A frame is
received whole and decoded before the command's first event (R92); an `Illegal` frame is answered `IllegalCommand` with
no event and no change (R101); a reset scheduled into a command follows it (70_reset_and_hazards R240); with no move
left the block stays idle (60_exceptions R233; DESIGN CHOICE, notes/assumptions/6.md). One step is one whole command
(DEDUCED, notes/assumptions/8.md). -/

namespace Sys2Proof.Machine

/-- A submitted frame: decoded whole, then executed or rejected (30_encoding R92, R101). -/
def runFrame (frame : List Byte) (s : State) : Host.Outcome State Fault Refusal :=
  match decode frame with
  | .ok i => exec i (s.begin s.cut)
  | .error _ => s.raise .illegalCommand

/-- One move of the host. -/
def step (s : State) : Host.Outcome State Fault Refusal :=
  match s.fetch with
  | none => .next s
  | some (.reset, t) => .next t.hardwareReset
  | some (.submit frame none, t) => runFrame frame { t with cut := none }
  | some (.submit frame (some n), t) => StepResult.thenReset (runFrame frame (t.begin (some n)))

/-- `s` with a frame, numbered as spec/opcode_table.json numbers it, as the next one the host submits. -/
def State.withFetchWord (s : State) (nbits w : Nat) : State := s.withNextFrame nbits w

end Sys2Proof.Machine
end

