-- ==== Sys2Proof/Safety.lean ====
section
/-! DEFINITION. The terms the claims use: good runs, the premises on the environment, the invariant, the event lists the
spec writes out, which frames are illegal. -/

namespace Sys2Proof.Machine

/-! ### Good runs

The spec advises to class three of the responses as faults (60_exceptions R206, R207; 93_implementation_defined U5, U9,
U16, U17). The commands that return them go on as the spec describes (notes/assumptions/14.md); a run that contains one
is not a good run. -/

/-- The responses after which a run is not a good one. -/
def Response.bad : Response → Bool
  | .ok => false
  | .okValue _ => false
  | .invalidArgument => false
  | .pinSetupFailed _ => false
  | .pinFault => true
  | .stateError => true
  | .illegalCommand => true

/-- No bad response has been returned (60_exceptions R206, R207, R208). -/
def State.good (s : State) : Bool := s.responses.all (fun r => !r.bad)

/-! ### Premises on the environment -/

/-- The next `n` transactions answer `ok` and no reset strikes the command: the premise of the spec's claims about a
command that ends well (20_memory R58, 60_exceptions R206). -/
abbrev State.accepts (s : State) (n : Nat) : Prop := s.cut = none ∧ ∀ a ∈ s.answers.take n, a = Answer.ok

/-- Every transaction is answered and no reset strikes the command: the premise of every claim that a command ends
(70_reset_and_hazards R251). -/
abbrev State.answered (s : State) : Prop := s.cut = none ∧ ∀ a ∈ s.answers, a ≠ Answer.silent

/-- Of the transactions to come, number `k` (from 0) answers `err` and those before it `ok`; no reset strikes. -/
abbrev State.failsAt (s : State) (k : Nat) (edges : List Role) : Prop :=
  s.cut = none ∧ s.answers.take (k + 1) = List.replicate k Answer.ok ++ [Answer.err edges]

/-- The answer as SRBB sees it. -/
def Answer.ack : Answer → Ack
  | .ok => .ok
  | .err _ => .err
  | .silent => .err

/-- How transaction number `n` from now (from 0) is answered. -/
def State.ackAt (s : State) (n : Nat) : Ack := (s.answers.getD n .ok).ack

/-! ### The event lists of the spec -/

/-- The clear strobe (41_clear R141). -/
def clearEvents (p : Nat) : List Event := [.port (.set p .low) .ok, .wait, .port (.set p .high) .ok]

/-- A Pulse (44_pulse R185). -/
def pulseEvents (p : Nat) : List Event :=
  [.port (.set p .low) .ok, .wait, .port (.set p .high) .ok, .wait, .port (.set p .low) .ok]

/-- Bit `k` of a WRITE, counted from the most significant, presented and shifted in (42_write R151). -/
def bitEvents (ps : PinSet) (cap data k : Nat) : List Event :=
  .port (.set ps.serialIn (levelOfBit (data.testBit (cap - 1 - k)))) .ok :: pulseEvents ps.shiftClock

/-- A WRITE that ends `OK`, up to its response (42_write R151). -/
def writeEvents (ps : PinSet) (cap data : Nat) : List Event :=
  clearEvents ps.clear ++ (List.range cap).flatMap (bitEvents ps cap data) ++ pulseEvents ps.latchClock

/-- A CONSTRUCT that ends `OK`, up to its response (40_construct_capacity R121). -/
def constructEvents (ps : PinSet) : List Event := ps.toList.map (fun p => .port (.cfg p) .ok)

/-- A CONSTRUCT whose `Cfg` number `i` answers `err`, up to its response; `acks j` answers the release of pin `j`
(40_construct_capacity R121, R123, R124). -/
def rollbackEvents (ps : PinSet) (i : Nat) (acks : Nat → Ack) : List Event :=
  let acquired : List Event := (ps.toList.take i).map (fun p => .port (.cfg p) .ok)
  let refused : List Event := [.port (.cfg (ps.toList.getD i 0)) .err]
  let released : List Event := (List.range i).map (fun j => .port (.rel (ps.toList.getD j 0)) (acks j))
  let logged : List Event := if i = 0 then [] else [.log .rollback]
  acquired ++ refused ++ released ++ logged

/-- A DESTROY from `Ready` with every answer `ok`, up to its response (43_destroy R171). -/
def teardownEvents (ps : PinSet) : List Event :=
  let allLow : List Event := [.port (.setM ps.toList .low) .ok]
  let released : List Event := ps.toList.map (fun p => .port (.rel p) .ok)
  clearEvents ps.clear ++ pulseEvents ps.latchClock ++ allLow ++ released

/-- An event list up to and including its transaction number `k` (from 0), which answers `err`. -/
def failAt : Nat → List Event → List Event
  | _, [] => []
  | 0, .port t _ :: _ => [.port t .err]
  | k + 1, .port t a :: es => .port t a :: failAt k es
  | k, .wait :: es => .wait :: failAt k es
  | k, .log l :: es => .log l :: failAt k es
  | k, .respond r :: es => .respond r :: failAt k es

/-- The steps of a teardown, each release one of its own, with every answer `ok` (43_destroy R171, R174). -/
def teardownSteps (ps : PinSet) : List (List Event) :=
  let released : List (List Event) := ps.toList.map (fun p => [.port (.rel p) .ok])
  [clearEvents ps.clear, pulseEvents ps.latchClock, [.port (.setM ps.toList .low) .ok]] ++ released

/-- A trace item is a transaction. -/
def Event.isPort : Event → Bool
  | .port _ _ => true
  | _ => false

/-- The steps of a teardown in a row where transaction number `k` (from 0) answers `err` and every other `ok`: the step
it belongs to ends there with one warning, the others run whole (43_destroy R174). -/
def failStep : Nat → List (List Event) → List Event
  | _, [] => []
  | k, es :: rest =>
    if k < es.countP Event.isPort then failAt k es ++ [.log .teardownWarning] ++ rest.flatten
    else es ++ failStep (k - es.countP Event.isPort) rest

/-- What a completed trace item did, the answer it got being the next one: replaying the items of a command in order
gives the pins and the load they left (70_reset_and_hazards R242). -/
def State.replay (s : State) : Event → State
  | .port t .ok => s.granted t
  | .port t .err =>
    match s.nextAnswer with
    | .err edges => s.denied t edges
    | .ok => s
    | .silent => s
  | .wait => s.record .wait
  | .log k => s.record (.log k)
  | .respond _ => s

/-- The pins a trace item addresses. -/
def Event.pins : Event → List Nat
  | .port (.cfg p) _ => [p]
  | .port (.set p _) _ => [p]
  | .port (.setM ps _) _ => ps
  | .port (.rel p) _ => [p]
  | .wait => []
  | .log _ => []
  | .respond _ => []

/-- The pin a trace item releases or tries to release. -/
def Event.relPin : Event → Option Nat
  | .port (.rel p) _ => some p
  | _ => none

/-- A trace item is a transaction that answered `err`. -/
def Event.isErr : Event → Bool
  | .port _ .err => true
  | _ => false

/-- A trace item is the warning of a teardown. -/
def Event.isWarning : Event → Bool
  | .log .teardownWarning => true
  | _ => false

/-- A trace item is a response. -/
def Event.isResponse : Event → Bool
  | .respond _ => true
  | .port _ _ => false
  | .wait => false
  | .log _ => false

/-- A trace item is a transaction of a kind: `Cfg`, `Set`, `SetM`, `Rel` (20_memory R62). -/
def Event.isCfg : Event → Bool
  | .port (.cfg _) _ => true
  | _ => false
def Event.isSet : Event → Bool
  | .port (.set _ _) _ => true
  | _ => false
def Event.isSetM : Event → Bool
  | .port (.setM _ _) _ => true
  | _ => false
def Event.isRel : Event → Bool
  | .port (.rel _) _ => true
  | _ => false

/-- The five counts of a row of the table in 20_memory R62: `Cfg`, `Set`, `SetM`, `Rel`, `Wait`. -/
def eventCounts (es : List Event) : List Nat :=
  [es.countP Event.isCfg, es.countP Event.isSet, es.countP Event.isSetM, es.countP Event.isRel, settleCount es]

/-! ### The lifecycle (spec/10_state.md R25) -/

/-- `ST` after a command that ended with a response (the table of R25). -/
def Lifecycle.after (st : Lifecycle) (i : Instr) (r : Response) : Lifecycle :=
  match st, i, r with
  | .uninitialized, .construct _ _ _ _ _, .ok => .ready
  | .uninitialized, .construct _ _ _ _ _, .pinSetupFailed _ => .failed
  | .ready, .destroy, _ => .released
  | st, _, _ => st

/-- The responses a command may end with in a state (10_state R25, 30_encoding R102, 60_exceptions R220). -/
def Lifecycle.allows (st : Lifecycle) (i : Instr) (r : Response) : Prop :=
  match st, i with
  | .uninitialized, .construct _ _ _ _ _ => r = .ok ∨ r = .invalidArgument ∨ ∃ k < 4, r = .pinSetupFailed k
  | _, .construct _ _ _ _ _ => r = .stateError
  | .ready, .capacity => ∃ v, r = .okValue v
  | _, .capacity => r = .stateError
  | .ready, .clear => r = .ok ∨ r = .pinFault
  | _, .clear => r = .stateError
  | .ready, .write _ => r = .ok ∨ r = .invalidArgument ∨ r = .pinFault
  | _, .write _ => r = .stateError
  | _, .destroy => r = .ok

/-! ### Frames (spec/30_encoding.md R100, R101) -/

/-- The frames R101 calls `Illegal`, in its words. -/
def IllegalFrame (bs : List Byte) : Prop :=
  bs = [] ∨
  (∃ op rest, bs = op :: rest ∧ (op = 0x00#8 ∨ 0x06 ≤ op.toNat)) ∨
  (∃ rest, bs = 0x01#8 :: rest ∧ bs.length ≠ 6) ∨
  (∃ op rest, bs = op :: rest ∧ (op = 0x02#8 ∨ op = 0x03#8 ∨ op = 0x05#8) ∧ bs.length ≠ 1) ∨
  bs = [0x04#8] ∨
  (∃ len ds, bs = 0x04#8 :: len :: ds ∧ bs.length ≠ 2 + len.toNat)

/-! ### The invariant -/

/-- The invariant between commands: the pin space is canonical; `CAP` is the capacity of `NS` once constructed (10_state
R23); in `Ready` all four pins are owned (20_memory R52), and, with four distinct pins, no clock rests `HIGH` and
`clear` does not rest `LOW` (44_pulse R187, R190). -/
structure State.Inv (s : State) : Prop where
  canonical : s.space.wf
  capacity : s.st ≠ .uninitialized → s.cap = capacityOf s.ns
  owned : s.st = .ready → ∀ r, s.owned (s.pin.at r) = some true
  shiftClock : s.st = .ready → s.pin.distinct = true → s.level s.pin.shiftClock ≠ some .high
  latchClock : s.st = .ready → s.pin.distinct = true → s.level s.pin.latchClock ≠ some .high
  clear : s.st = .ready → s.pin.distinct = true → s.level s.pin.clear ≠ some .low

/-! ### What two states may differ in -/

/-- `t` differs from `s` at most in what lies outside SRBB: the pins and the load (10_state R33). -/
def State.SameInside (s t : State) : Prop := { s with space := t.space, shift := t.shift, out := t.out } = t

/-- `t` differs from `s` at most in the transient registers, which no command reads from another (10_state section 3). -/
def State.SameLasting (s t : State) : Prop :=
  { s with dsr := t.dsr, mask := t.mask, bitcnt := t.bitcnt, acq := t.acq } = t

/-- `t` differs from `s` at most in `PIN`, `NS` and `CAP`, and, in `Ready`, where these have been written, not at all
(10_state R34). -/
def State.SameWritten (s t : State) : Prop :=
  { s with pin := t.pin, ns := t.ns, cap := t.cap } = t ∧ (s.st = .ready → s = t)

/-- Two answers of a command alike up to a relation of their states. -/
def StepResult.Alike (R : State → State → Prop) (x y : StepResult) : Prop :=
  match x, y with
  | .next s, .next t => R s t
  | .fault f, .fault g => f = g
  | .refused a, .refused b => a = b
  | _, _ => False

end Sys2Proof.Machine
end

