-- ==== Sys2Proof/Certificates/Slice0/Obligations.lean ====
section
/-! DEFINITION. The statements for the provers, from the numbered rules of spec/. `Obligations.<Name>` says what it
states; OBLIGATIONS.json lists them. No statement rests on the values of the model's own fields: each holds for every
list of answers that meets its premise, for every unknown of the load and for every reset value. -/

open Sys2Proof Sys2Proof.Machine

/-! ### Frames and responses -/

/-- Frames written out from the encoding tables decode to the commands they stand for (30_encoding R96 to R99; vectors
E1 to E14 of 95_test_vectors). -/
def Obligations.KnownFramesDecode : Prop :=
  decode [0x01#8, 0x11#8, 0x1B#8, 0x16#8, 0x17#8, 0x00#8] = .ok (.construct 17 27 22 23 0) ∧
  decode [0x01#8, 0x00#8, 0xFF#8, 0x00#8, 0xFF#8, 0x80#8] = .ok (.construct 0 255 0 255 (-128)) ∧
  decode [0x02#8] = .ok .capacity ∧
  decode [0x03#8] = .ok .clear ∧
  decode [0x04#8, 0x00#8] = .ok (.write 0) ∧
  decode [0x04#8, 0x02#8, 0x12#8, 0x34#8] = .ok (.write 0x1234) ∧
  decode [0x04#8, 0x03#8, 0x00#8, 0x00#8, 0xA5#8] = .ok (.write 0xA5) ∧
  decode [0x05#8] = .ok .destroy

/-- Decoding the frame of any command the encoding can carry gives the command back (30_encoding R95 to R99, R104). -/
def Obligations.DecodeOfEncode : Prop :=
  ∀ i : Instr, i.wellFormed = true → decode (encode i) = .ok i

/-- Every CONSTRUCT frame of six bytes decodes, each operand from its own byte, the slave count as a signed byte
(30_encoding R97, R98). -/
def Obligations.ConstructFrameOperands : Prop :=
  ∀ a b c d n : Byte,
    decode [0x01#8, a, b, c, d, n] =
      .ok (.construct a.toNat b.toNat c.toNat d.toNat (if n.toNat < 128 then (n.toNat : Int) else (n.toNat : Int) - 256))

/-- A WRITE frame with `LEN` data bytes carries their big-endian value, whatever they are; a leading zero byte does not
change it (30_encoding R99). -/
def Obligations.WriteFrameIsBigEndian : Prop :=
  (∀ ds : List Byte, ds.length ≤ 255 →
    decode (0x04#8 :: BitVec.ofNat 8 ds.length :: ds) =
      .ok (.write (∑ j ∈ Finset.range ds.length, (ds.getD j 0#8).toNat * 256 ^ (ds.length - 1 - j)))) ∧
  (∀ ds : List Byte, ds.length ≤ 254 →
    decode (0x04#8 :: BitVec.ofNat 8 (ds.length + 1) :: 0x00#8 :: ds) =
      decode (0x04#8 :: BitVec.ofNat 8 ds.length :: ds))

/-- The decoder rejects exactly the frames R101 calls Illegal, and a rejected frame has the response IllegalCommand, no
event and no change of any state, in every `ST` (30_encoding R101, 60_exceptions R208). -/
def Obligations.IllegalFramesRejected : Prop :=
  (∀ bs : List Byte, (∃ e, decode bs = .error e) ↔ IllegalFrame bs) ∧
  (∀ (s : State) (bs : List Byte) (rest : List HostMove), IllegalFrame bs → s.inbox = .submit bs none :: rest →
    s.cut = none →
    step s = .next { s with inbox := rest, trace := s.trace ++ [.respond .illegalCommand] })

/-- The bytes of every response (30_encoding R102). -/
def Obligations.ResponseFrameBytes : Prop :=
  Response.frame .ok = [0x00#8] ∧
  (∀ hh ll : Byte, Response.frame (.okValue (hh.toNat * 256 + ll.toNat)) = [0x00#8, hh, ll]) ∧
  Response.frame .invalidArgument = [0x01#8] ∧
  (∀ i : Byte, Response.frame (.pinSetupFailed i.toNat) = [0x02#8, i]) ∧
  Response.frame .pinFault = [0x03#8] ∧
  Response.frame .stateError = [0x04#8] ∧
  Response.frame .illegalCommand = [0x05#8]

/-! ### The step -/

/-- A submitted frame that decodes is executed as the command it stands for: the step is `exec` of it at the state with
the move taken, `SEQ` at 0 and no reset scheduled (30_encoding R92, 10_state R30). -/
def Obligations.StepRunsDecodedCommand : Prop :=
  ∀ (s : State) (frame : List Byte) (rest : List HostMove) (i : Instr),
    s.inbox = .submit frame none :: rest → decode frame = .ok i →
    step s = exec i { s with inbox := rest, seq := 0, cut := none }

/-- After power-up: `Uninitialized`, both flags false, the load unknown, no pin owned (10_state R34, 70_reset R240,
R241, R243; 20_memory R52). Of the registers the spec gives no value nothing is said. -/
def Obligations.PowerUpState : Prop :=
  State.reset.st = .uninitialized ∧ State.reset.constructed = false ∧ State.reset.tornDown = false ∧
  State.reset.shift = none ∧ State.reset.out = none ∧
  (∀ p, State.reset.owned p = some false ∧ State.reset.level p = none)

/-- The hardware reset of an idle block: `Uninitialized`, no transaction, no response, and the pins and the load as they
were (70_reset R240, R242). -/
def Obligations.ResetLeavesPinsAndLoad : Prop :=
  ∀ (s : State) (rest : List HostMove), s.inbox = .reset :: rest →
    ∃ t, step s = .next t ∧ t.st = .uninitialized ∧ t.constructed = false ∧ t.tornDown = false ∧
      t.trace = s.trace ∧ t.inbox = rest ∧ t.answers = s.answers ∧
      t.shift = s.shift ∧ t.out = s.out ∧ (∀ p, t.owned p = s.owned p ∧ t.level p = s.level p)

/-- A reset that strikes inside a command cuts its trace after the event it strikes at, with no response, and the block
is `Uninitialized`; the pins and the load are as the completed events left them, at every cut: before the first event as
they were, after the last one, with or without the response, as the command leaves them (70_reset R240, R242; 10_state
R30; the cut point is the free choice of 93 U15; that a transaction in flight has done nothing is
notes/assumptions/7.md). -/
def Obligations.ResetCutsTheTrace : Prop :=
  ∀ (s u : State) (frame : List Byte) (rest : List HostMove) (i : Instr) (n : Nat) (es : List Event),
    s.inbox = .submit frame (some n) :: rest → decode frame = .ok i →
    exec i { s with inbox := rest, seq := 0, cut := none } = .next u → u.trace = s.trace ++ es →
    ∃ t, step s = .next t ∧ t.st = .uninitialized ∧ t.trace = s.trace ++ es.take n ∧
      (let v := (es.take n).foldl State.replay { s with inbox := rest, pin := u.pin, cap := u.cap }
       t.shift = v.shift ∧ t.out = v.out ∧ ∀ p, t.owned p = v.owned p ∧ t.level p = v.level p) ∧
      (n = 0 → t.shift = s.shift ∧ t.out = s.out ∧ ∀ p, t.owned p = s.owned p ∧ t.level p = s.level p) ∧
      (es.length ≤ n + 1 → t.shift = u.shift ∧ t.out = u.out ∧ ∀ p, t.owned p = u.owned p ∧ t.level p = u.level p)

/-! ### CONSTRUCT -/

/-- CONSTRUCT in `Uninitialized` with a non-negative slave count and four `ok` answers: the four `Cfg` in order, `OK`,
`Ready`; `PIN`, `NS`, `CAP` written; every pin of the PinSet owned and without a level; the load as before, but for a
fresh `clear` that comes up `LOW` and clears it; every other pin and every other register as before
(40_construct_capacity R120, R121, R127; 20_memory R52, R53, R56; 70_reset R252). -/
def Obligations.ConstructSucceeds : Prop :=
  ∀ (p0 p1 p2 p3 : Nat) (ns : Int) (s : State), s.st = .uninitialized → 0 ≤ ns → s.accepts 4 →
    ∃ t, exec (.construct p0 p1 p2 p3 ns) s = .next t ∧
      t.st = .ready ∧ t.constructed = true ∧ t.tornDown = false ∧
      t.pin = { serialIn := p0, shiftClock := p1, latchClock := p2, clear := p3 } ∧
      (t.ns : Int) = ns ∧ t.cap = (t.ns + 1) * 8 ∧ t.acq = 4 ∧ t.seq = s.seq + 4 ∧
      t.trace = s.trace ++ ([.port (.cfg p0) .ok, .port (.cfg p1) .ok, .port (.cfg p2) .ok, .port (.cfg p3) .ok,
        .respond .ok] : List Event) ∧
      (∀ p, t.owned p = (if p ∈ [p0, p1, p2, p3] then some true else s.owned p) ∧
        t.level p = (if p ∈ [p0, p1, p2, p3] then none else s.level p)) ∧
      (t.shift = s.shift ∨ t.shift = some 0) ∧ t.out = s.out ∧ t.dsr = s.dsr ∧ t.mask = s.mask ∧
      t.bitcnt = s.bitcnt ∧ t.answers = s.answers.drop 4 ∧ t.inbox = s.inbox ∧ t.cut = none

/-- CONSTRUCT in `Uninitialized` with a negative slave count: `InvalidArgument`, no event, nothing written
(40_construct_capacity R122, 60_exceptions R202). -/
def Obligations.ConstructRejectsNegativeSlaves : Prop :=
  ∀ (p0 p1 p2 p3 : Nat) (ns : Int) (s : State), s.st = .uninitialized → ns < 0 → s.cut = none →
    exec (.construct p0 p1 p2 p3 ns) s = .next { s with trace := s.trace ++ [.respond .invalidArgument] }

/-- CONSTRUCT outside `Uninitialized`: `StateError`, no event, nothing written, whatever its operands
(40_construct_capacity R126; the state check precedes the argument check, 60_exceptions R212). -/
def Obligations.ConstructOutsideUninitialized : Prop :=
  ∀ (p0 p1 p2 p3 : Nat) (ns : Int) (s : State), s.st ≠ .uninitialized → s.cut = none →
    exec (.construct p0 p1 p2 p3 ns) s = .next { s with trace := s.trace ++ [.respond .stateError] }

/-- CONSTRUCT whose `Cfg` number `i` answers `err`: no further `Cfg`; the pins before it are released in order whatever
the answers; one rollback log after them, if there was anything to release; `Failed`; `PinSetupFailed(i)`; `OUT` as
before, and `SHIFT` too unless a pin configured before the failing one is also `clear`
(40_construct_capacity R121, R123, R124; 70_reset R252). -/
def Obligations.ConstructRollsBack : Prop :=
  ∀ (ps : PinSet) (ns : Int) (s : State) (i : Nat) (edges : List Role),
    s.st = .uninitialized → 0 ≤ ns → i < 4 → s.failsAt i edges →
    (∀ a ∈ (s.answers.drop (i + 1)).take i, a ≠ .silent) →
    ∃ t, exec (.construct ps.serialIn ps.shiftClock ps.latchClock ps.clear ns) s = .next t ∧
      t.st = .failed ∧ t.constructed = false ∧
      t.trace = s.trace ++ rollbackEvents ps i (fun j => s.ackAt (i + 1 + j)) ++ [.respond (.pinSetupFailed i)] ∧
      t.out = s.out ∧ (ps.clear ∉ ps.toList.take i → t.shift = s.shift)

/-- CONSTRUCT is all-or-nothing: from a block that owns none of the four pins, with every transaction answered, it
ends `Ready` with all four owned, or not `Ready` and, if no release answered `err`, with none owned
(40_construct_capacity R124, R125). -/
def Obligations.ConstructAllOrNothing : Prop :=
  ∀ (ps : PinSet) (ns : Int) (s : State), s.answered → s.st ≠ .ready →
    (∀ p ∈ ps.toList, s.owned p = some false) →
    ∃ t es, exec (.construct ps.serialIn ps.shiftClock ps.latchClock ps.clear ns) s = .next t ∧
      t.trace = s.trace ++ es ∧
      ((t.st = .ready ∧ ∀ p ∈ ps.toList, t.owned p = some true) ∨
       (t.st ≠ .ready ∧ ((∀ p, Event.port (.rel p) .err ∉ es) → ∀ p ∈ ps.toList, t.owned p = some false)))

/-- What CONSTRUCT leaves alone, whatever the answers: `OUT`, `SHIFT` but for a fresh `clear` that comes up `LOW` and
clears it, the registers of WRITE, and every pin that is none of its operands (10_state R35; 20_memory R54;
40_construct_capacity R127; 70_reset R252). -/
def Obligations.ConstructFrame : Prop :=
  ∀ (p0 p1 p2 p3 : Nat) (ns : Int) (s t : State), exec (.construct p0 p1 p2 p3 ns) s = .next t →
    (t.shift = s.shift ∨ t.shift = some 0) ∧ t.out = s.out ∧ t.dsr = s.dsr ∧ t.mask = s.mask ∧ t.bitcnt = s.bitcnt ∧
    t.inbox = s.inbox ∧ t.cut = s.cut ∧
    (∀ p, p ∉ [p0, p1, p2, p3] → t.owned p = s.owned p ∧ t.level p = s.level p)

/-! ### CAPACITY -/

/-- CAPACITY in `Ready` returns `CAP` and changes nothing; elsewhere it answers `StateError` and changes nothing; it
issues no event (40_construct_capacity R130). -/
def Obligations.CapacityReadsCap : Prop :=
  (∀ s : State, s.st = .ready → s.cut = none →
    exec .capacity s = .next { s with trace := s.trace ++ [.respond (.okValue s.cap)] }) ∧
  (∀ s : State, s.st ≠ .ready → s.cut = none →
    exec .capacity s = .next { s with trace := s.trace ++ [.respond .stateError] })

/-- The capacity law: after a CONSTRUCT with any slave count `n >= 0`, CAPACITY answers `(n + 1) * 8`
(40_construct_capacity R131; 10_state R23). -/
def Obligations.CapacityLaw : Prop :=
  ∀ (p0 p1 p2 p3 n : Nat) (s : State), s.st = .uninitialized → s.accepts 4 →
    ∃ t u, exec (.construct p0 p1 p2 p3 n) s = .next t ∧ exec .capacity t = .next u ∧
      u.trace = t.trace ++ [.respond (.okValue ((n + 1) * 8))]

/-! ### CLEAR -/

/-- CLEAR in `Ready` with both answers `ok`: the clear strobe, `OK`; the pin `clear` ends `HIGH`; with distinct pins the
load's `SHIFT` is 0 and its `OUT` unchanged; everything else as before (41_clear R140, R142; 20_memory R72). -/
def Obligations.ClearSucceeds : Prop :=
  ∀ s : State, s.st = .ready → s.accepts 2 →
    ∃ t, exec .clear s = .next t ∧ t.st = .ready ∧
      t.trace = s.trace ++ ([.port (.set s.pin.clear .low) .ok, .wait, .port (.set s.pin.clear .high) .ok,
        .respond .ok] : List Event) ∧
      (∀ p, t.owned p = s.owned p ∧ t.level p = (if p = s.pin.clear then some .high else s.level p)) ∧
      (s.pin.distinct = true → t.shift = some 0 ∧ t.out = s.out) ∧
      t.pin = s.pin ∧ t.ns = s.ns ∧ t.cap = s.cap ∧ t.dsr = s.dsr ∧ t.mask = s.mask ∧ t.bitcnt = s.bitcnt ∧
      t.acq = s.acq ∧ t.seq = s.seq + 3 ∧ t.answers = s.answers.drop 2 ∧ t.inbox = s.inbox ∧ t.cut = none

/-- The four cases of CLEAR: events, response and `ST` (41_clear R141); after a failing `Set` the pin `clear` has no level
(41_clear R144, 20_memory R53). -/
def Obligations.ClearEventsByCase : Prop :=
  (∀ s : State, s.st ≠ .ready → s.cut = none →
    exec .clear s = .next { s with trace := s.trace ++ [.respond .stateError] }) ∧
  (∀ s : State, s.st = .ready → s.accepts 2 →
    ∃ t, exec .clear s = .next t ∧ t.st = .ready ∧
      t.trace = s.trace ++ ([.port (.set s.pin.clear .low) .ok, .wait, .port (.set s.pin.clear .high) .ok,
        .respond .ok] : List Event)) ∧
  (∀ (s : State) (edges : List Role), s.st = .ready → s.failsAt 0 edges →
    ∃ t, exec .clear s = .next t ∧ t.st = .ready ∧ t.level s.pin.clear = none ∧
      t.trace = s.trace ++ ([.port (.set s.pin.clear .low) .err, .respond .pinFault] : List Event)) ∧
  (∀ (s : State) (edges : List Role), s.st = .ready → s.failsAt 1 edges →
    ∃ t, exec .clear s = .next t ∧ t.st = .ready ∧ t.level s.pin.clear = none ∧
      t.trace = s.trace ++ ([.port (.set s.pin.clear .low) .ok, .wait, .port (.set s.pin.clear .high) .err,
        .respond .pinFault] : List Event))

/-- Two CLEARs in a row leave SRBB and the load in the same state as one, `Ready`, `SHIFT` 0, `OUT` unchanged, `clear`
`HIGH`; each issues its own three events (41_clear R143). -/
def Obligations.ClearIsIdempotent : Prop :=
  ∀ s : State, s.st = .ready → s.pin.distinct = true → s.accepts 4 →
    ∃ t u, exec .clear s = .next t ∧ exec .clear t = .next u ∧
      t.st = .ready ∧ t.shift = some 0 ∧ t.out = s.out ∧ t.level s.pin.clear = some .high ∧
      u.st = t.st ∧ u.pin = t.pin ∧ u.ns = t.ns ∧ u.cap = t.cap ∧ u.shift = t.shift ∧ u.out = t.out ∧
      (∀ p, u.owned p = t.owned p ∧ u.level p = t.level p) ∧
      t.trace = s.trace ++ clearEvents s.pin.clear ++ [.respond .ok] ∧
      u.trace = t.trace ++ clearEvents s.pin.clear ++ [.respond .ok]

/-- What CLEAR leaves alone, whatever the answers: every register but `SEQ`, the ownership of every pin, the level of
every pin but `clear`, and, with distinct pins, `OUT` (41_clear R140, R142, R144; 10_state R20). -/
def Obligations.ClearFrame : Prop :=
  ∀ s t : State, exec .clear s = .next t →
    t.st = s.st ∧ t.pin = s.pin ∧ t.ns = s.ns ∧ t.cap = s.cap ∧ t.dsr = s.dsr ∧ t.mask = s.mask ∧
    t.bitcnt = s.bitcnt ∧ t.acq = s.acq ∧ t.inbox = s.inbox ∧ t.cut = s.cut ∧
    (∀ p, t.owned p = s.owned p) ∧ (∀ p, p ≠ s.pin.clear → t.level p = s.level p) ∧
    (s.pin.distinct = true → t.out = s.out)

/-! ### WRITE -/

/-- WRITE in `Ready` with a value that fits and every answer `ok`: the event list of R151, `OK`, `6*CAP + 8` events, the
shifter empty, every persistent register and the ownership of every pin as before (42_write R150, R151; 10_state R28,
R29, R30, R31). -/
def Obligations.WriteSucceeds : Prop :=
  ∀ (data : Nat) (s : State), s.st = .ready → data < 2 ^ s.cap → s.accepts (4 * s.cap + 5) →
    ∃ t, exec (.write data) s = .next t ∧ t.st = .ready ∧
      t.trace = s.trace ++ writeEvents s.pin s.cap data ++ [.respond .ok] ∧
      t.seq = s.seq + (6 * s.cap + 8) ∧ t.dsr = 0 ∧ t.mask = 1 <<< (s.cap - 1) ∧ t.bitcnt = 0 ∧
      t.pin = s.pin ∧ t.ns = s.ns ∧ t.cap = s.cap ∧ t.acq = s.acq ∧ (∀ p, t.owned p = s.owned p) ∧
      t.answers = s.answers.drop (4 * s.cap + 5) ∧ t.inbox = s.inbox ∧ t.cut = none

/-- The purpose of WRITE: whatever the load held before, after a WRITE that ends `OK` on four distinct pins
`SHIFT = OUT = data` (42_write R158; 20_memory R72 to R75). -/
def Obligations.WriteLatchesData : Prop :=
  ∀ (data : Nat) (s : State), s.st = .ready → s.pin.distinct = true → data < 2 ^ s.cap →
    s.accepts (4 * s.cap + 5) →
    ∃ t, exec (.write data) s = .next t ∧ t.shift = some data ∧ t.out = some data

/-- The shift register on the way: after the clear strobe and `k + 1` bits of a WRITE, `SHIFT` is the top `k + 1` bits of
`data` and `OUT` is what it was (42_write R154, R158). -/
def Obligations.ShiftHoldsTopBits : Prop :=
  ∀ (data k : Nat) (s : State), s.pin.distinct = true → data < 2 ^ s.cap → k < s.cap →
    s.accepts (2 + 4 * (k + 1)) →
    ∃ t u, s.clearSeq = .ok t ∧ State.sendBits (k + 1) (t.loadShifter data) = .ok u ∧
      t.shift = some 0 ∧ u.shift = some (data >>> (s.cap - 1 - k)) ∧ u.out = s.out ∧
      u.dsr = (data <<< (k + 1)) % 2 ^ s.cap

/-- Pin levels after a WRITE that ends `OK` on four distinct pins: `clear` `HIGH`, both clocks `LOW`, `serial_in` at the
level of bit 0 (42_write R157, 70_reset R256). Every other pin keeps its level. -/
def Obligations.WriteLeavesLevels : Prop :=
  ∀ (data : Nat) (s : State), s.st = .ready → s.pin.distinct = true → 0 < s.cap → data < 2 ^ s.cap →
    s.accepts (4 * s.cap + 5) →
    ∃ t, exec (.write data) s = .next t ∧
      t.level s.pin.clear = some .high ∧ t.level s.pin.shiftClock = some .low ∧
      t.level s.pin.latchClock = some .low ∧ t.level s.pin.serialIn = some (levelOfBit (data.testBit 0)) ∧
      (∀ p, p ∉ s.pin.toList → t.level p = s.level p)

/-- The counts of a WRITE that ends `OK`: `6*CAP + 8` events, `4*CAP + 5` `Set`, `2*CAP + 3` `Wait`, at least
`(2*CAP + 3) * T_SETTLE`, whatever the settle delay is (42_write R152; notes/assumptions/19.md). -/
def Obligations.WriteCounts : Prop :=
  ∀ (data : Nat) (s : State), s.st = .ready → data < 2 ^ s.cap → s.accepts (4 * s.cap + 5) →
    ∃ t es, exec (.write data) s = .next t ∧ t.trace = s.trace ++ es ++ [.respond .ok] ∧
      es.length = 6 * s.cap + 8 ∧ es.countP Event.isSet = 4 * s.cap + 5 ∧ es.count .wait = 2 * s.cap + 3 ∧
      minDurationMs es = (2 * s.cap + 3) * Config.settleMs

/-- The range check of WRITE in `Ready`: a value of `2^CAP` or more is rejected with `InvalidArgument`, no event, no
change; a smaller one, `2^CAP - 1` among them, is accepted (42_write R153). -/
def Obligations.WriteRangeCheck : Prop :=
  (∀ (data : Nat) (s : State), s.st = .ready → s.cut = none → 2 ^ s.cap ≤ data →
    exec (.write data) s = .next { s with trace := s.trace ++ [.respond .invalidArgument] }) ∧
  (∀ (data : Nat) (s : State), s.st = .ready → s.accepts (4 * s.cap + 5) → data < 2 ^ s.cap →
    ∃ t es, exec (.write data) s = .next t ∧ t.trace = s.trace ++ es ++ [.respond .ok])

/-- Two WRITEs in a row that end `OK`: the second clears before it shifts and its output is its own data, never a
residue of the first (42_write R159). -/
def Obligations.WritesAreIndependent : Prop :=
  ∀ (first second : Nat) (s : State), s.st = .ready → s.pin.distinct = true → first < 2 ^ s.cap →
    second < 2 ^ s.cap → s.accepts (2 * (4 * s.cap + 5)) →
    ∃ t u, exec (.write first) s = .next t ∧ exec (.write second) t = .next u ∧
      u.shift = some second ∧ u.out = some second ∧
      u.trace = t.trace ++ writeEvents s.pin s.cap second ++ [.respond .ok]

/-- A WRITE right after CONSTRUCT ends with its own data on the outputs, whatever levels the fresh pins come up at and
whatever the load held: neither case of R252 harms it (70_reset R252, 42_write R158). -/
def Obligations.FreshPinsHarmNoWrite : Prop :=
  ∀ (ps : PinSet) (n data : Nat) (s : State), s.st = .uninitialized → ps.distinct = true → data < 2 ^ ((n + 1) * 8) →
    s.accepts (4 + (4 * ((n + 1) * 8) + 5)) →
    ∃ t u, exec (.construct ps.serialIn ps.shiftClock ps.latchClock ps.clear n) s = .next t ∧
      (t.shift = s.shift ∨ t.shift = some 0) ∧ t.out = s.out ∧
      exec (.write data) t = .next u ∧ u.shift = some data ∧ u.out = some data

/-- A WRITE whose `Set` number `k` answers `err`: its event list up to that `Set`, then `PinFault`; `ST` stays `Ready`,
no persistent register changes, the pin of that `Set` has no level, every pin outside the PinSet keeps its own, and, on four distinct pins, `OUT` is unchanged unless that `Set` belonged to the latch
pulse (42_write R151, R160; 60_exceptions R206; 20_memory R53). -/
def Obligations.WriteStopsAtPinFault : Prop :=
  ∀ (data k : Nat) (edges : List Role) (s : State), s.st = .ready → data < 2 ^ s.cap → k < 4 * s.cap + 5 →
    s.failsAt k edges →
    ∃ t, exec (.write data) s = .next t ∧ t.st = .ready ∧
      t.trace = s.trace ++ failAt k (writeEvents s.pin s.cap data) ++ [.respond .pinFault] ∧
      t.pin = s.pin ∧ t.ns = s.ns ∧ t.cap = s.cap ∧ (∀ p, t.owned p = s.owned p) ∧
      (∃ p l, (failAt k (writeEvents s.pin s.cap data)).getLast? = some (.port (.set p l) .err) ∧ t.level p = none) ∧
      (∀ p, p ∉ s.pin.toList → t.level p = s.level p) ∧
      (s.pin.distinct = true → k < 4 * s.cap + 2 → t.out = s.out)

/-- What WRITE leaves alone, whatever the answers: `ST`, `PIN`, `NS`, `CAP`, `ACQ`, the ownership of every pin, and every
pin outside the PinSet (42_write R150; 10_state R20, R35; 20_memory R54). -/
def Obligations.WriteFrame : Prop :=
  ∀ (data : Nat) (s t : State), exec (.write data) s = .next t →
    t.st = s.st ∧ t.pin = s.pin ∧ t.ns = s.ns ∧ t.cap = s.cap ∧ t.acq = s.acq ∧ t.inbox = s.inbox ∧ t.cut = s.cut ∧
    (∀ p, t.owned p = s.owned p) ∧ (∀ p, p ∉ s.pin.toList → t.level p = s.level p)

/-! ### DESTROY -/

/-- DESTROY in `Ready` with every answer `ok`: the thirteen events of R171, `OK`, `Released`, no pin of the PinSet owned,
whatever came before; on four distinct pins all four end `LOW` and the load's `SHIFT` and `OUT` are 0; every other
register and pin as before (43_destroy R171, R176; 20_memory R60). -/
def Obligations.DestroyTearsDown : Prop :=
  ∀ s : State, s.st = .ready → s.accepts 10 →
    ∃ t, exec .destroy s = .next t ∧ t.st = .released ∧ t.tornDown = true ∧
      t.trace = s.trace ++ teardownEvents s.pin ++ [.respond .ok] ∧ t.seq = s.seq + 13 ∧
      (∀ p, t.owned p = (if p ∈ s.pin.toList then some false else s.owned p)) ∧
      (∀ p, t.level p = (if p ∈ s.pin.toList then some .low else s.level p)) ∧
      (s.pin.distinct = true → t.shift = some 0 ∧ t.out = some 0) ∧
      t.pin = s.pin ∧ t.ns = s.ns ∧ t.cap = s.cap ∧ t.dsr = s.dsr ∧ t.mask = s.mask ∧ t.bitcnt = s.bitcnt ∧
      t.acq = s.acq ∧ t.answers = s.answers.drop 10 ∧ t.inbox = s.inbox ∧ t.cut = none

/-- DESTROY outside `Ready`: no event, nothing changed, `OK` (43_destroy R172). -/
def Obligations.DestroyElsewhereDoesNothing : Prop :=
  ∀ s : State, s.st ≠ .ready → s.cut = none →
    exec .destroy s = .next { s with trace := s.trace ++ [.respond .ok] }

/-- The teardown is best effort: whatever is answered, DESTROY in `Ready` ends `Released` with the response `OK`, releases
the four pins in order, each once, logs one warning immediately after each failing transaction and no other, and never
raises (43_destroy R174, R175; 60_exceptions R204). -/
def Obligations.DestroyIsBestEffort : Prop :=
  ∀ s : State, s.st = .ready → s.answered →
    ∃ t es, exec .destroy s = .next t ∧ t.st = .released ∧ t.trace = s.trace ++ es ++ [.respond .ok] ∧
      es.filterMap Event.relPin = s.pin.toList ∧
      (∀ k, (es[k]?.any Event.isErr) = (es[k + 1]?.any Event.isWarning)) ∧
      (es[0]?.any Event.isWarning) = false

/-- A DESTROY one of whose ten transactions answers `err`: the rest of that step is skipped, one warning follows the
failing transaction, the later steps run whole, the response is `OK`, `ST` is `Released`; the four pins end `LOW`, or
without a level where it is the bulk `SetM` that failed; a pin whose release failed has no known ownership (43_destroy
R171, R174, R175; 20_memory R53, R59). -/
def Obligations.DestroySkipsFailedStep : Prop :=
  ∀ (s : State) (k : Nat) (edges : List Role), s.st = .ready → k < 10 → s.failsAt k edges →
    (∀ a ∈ s.answers.drop (k + 1), a = Answer.ok) →
    ∃ t, exec .destroy s = .next t ∧ t.st = .released ∧
      t.trace = s.trace ++ failStep k (teardownSteps s.pin) ++ [.respond .ok] ∧
      (∀ p ∈ s.pin.toList, t.level p = (if k = 5 then none else some .low)) ∧
      (∀ i < 4, s.pin.distinct = true →
        t.owned (s.pin.toList.getD i 0) = (if k = 6 + i then none else some false))

/-- What DESTROY leaves alone, whatever the answers: every register but `ST` and `SEQ`, and every pin outside the PinSet
(43_destroy R170; 10_state R35; 20_memory R54). -/
def Obligations.DestroyFrame : Prop :=
  ∀ s t : State, exec .destroy s = .next t →
    t.pin = s.pin ∧ t.ns = s.ns ∧ t.cap = s.cap ∧ t.dsr = s.dsr ∧ t.mask = s.mask ∧ t.bitcnt = s.bitcnt ∧
    t.acq = s.acq ∧ t.inbox = s.inbox ∧ t.cut = s.cut ∧
    (∀ p, p ∉ s.pin.toList → t.owned p = s.owned p ∧ t.level p = s.level p)

/-! ### Pulse and the load -/

/-- A Pulse whose transactions answer `ok`: its five events, the pin ends `LOW`, and on four distinct pins it acts once
whatever the pin's level was: on the shift clock, with `clear` `HIGH` and `serial_in` at a level, one bit is shifted in
and `OUT` stays; on the latch clock `OUT` takes `SHIFT` and `SHIFT` stays (44_pulse R185, R187; 20_memory R73, R74). -/
def Obligations.PulseActsOnce : Prop :=
  (∀ (r : Role) (s : State), s.accepts 3 →
    ∃ t, State.pulse r s = .ok t ∧
      t.trace = s.trace ++ ([.port (.set (s.pin.at r) .low) .ok, .wait, .port (.set (s.pin.at r) .high) .ok, .wait,
        .port (.set (s.pin.at r) .low) .ok] : List Event) ∧
      t.level (s.pin.at r) = some .low) ∧
  (∀ (s : State) (v : Nat) (l : Level), s.accepts 3 → s.pin.distinct = true → s.shift = some v →
    s.level s.pin.clear = some .high → s.level s.pin.serialIn = some l →
    ∃ t, State.pulse .shiftClock s = .ok t ∧ t.shift = some (((v <<< 1) + bitOfLevel l) % 2 ^ s.cap) ∧
      t.out = s.out) ∧
  (∀ s : State, s.accepts 3 → s.pin.distinct = true →
    ∃ t, State.pulse .latchClock s = .ok t ∧ t.out = s.shift ∧ t.shift = s.shift)

/-- The bulk transaction that drives the four distinct pins `LOW` leaves the load with `SHIFT` 0 and `OUT` unchanged in
every order of the four pins (20_memory R77). -/
def Obligations.BulkLowInEveryOrder : Prop :=
  ∀ (s : State) (ps : List Nat), s.pin.distinct = true → ps.Perm s.pin.toList → s.accepts 1 →
    ∃ t, s.issue (.setM ps .low) = .ok t ∧ t.shift = some 0 ∧ t.out = s.out ∧
      (∀ p ∈ ps, t.level p = some .low)

/-- The other transactions leave the load unchanged: `Cfg` and `Rel` however they are answered, and on four distinct pins
an `ok` `Set` on `serial_in`, an `ok` `Set` that drives a clock `LOW`, and an `ok` `Set` that drives `clear` `HIGH`
(20_memory R76); but a `Cfg` of `clear` that answers `ok` may bring it up `LOW`, which clears `SHIFT` (70_reset R252). -/
def Obligations.OtherEventsLeaveLoad : Prop :=
  (∀ (s t : State) (p : Nat), (s.issue (.cfg p) = .failed t ∨ s.issue (.rel p) = .ok t ∨
      s.issue (.rel p) = .failed t) → t.shift = s.shift ∧ t.out = s.out) ∧
  (∀ (s t : State) (p : Nat), s.issue (.cfg p) = .ok t →
      t.out = s.out ∧ (t.shift = s.shift ∨ (p = s.pin.clear ∧ t.shift = some 0))) ∧
  (∀ (s t : State) (l : Level), s.pin.distinct = true → s.issue (.set s.pin.serialIn l) = .ok t →
    t.shift = s.shift ∧ t.out = s.out) ∧
  (∀ (s t : State), s.pin.distinct = true → (s.issue (.set s.pin.shiftClock .low) = .ok t ∨
      s.issue (.set s.pin.latchClock .low) = .ok t ∨ s.issue (.set s.pin.clear .high) = .ok t) →
    t.shift = s.shift ∧ t.out = s.out)

/-! ### The whole machine -/

/-- CAPACITY, CLEAR and WRITE outside `Ready`, and CONSTRUCT outside `Uninitialized`, answer `StateError` with no event
and no change, whatever their operands (60_exceptions R207, R212). -/
def Obligations.InvalidCommandsAnswerStateError : Prop :=
  ∀ (i : Instr) (s : State), s.cut = none →
    (match i with
      | .construct _ _ _ _ _ => s.st ≠ .uninitialized
      | .capacity => s.st ≠ .ready
      | .clear => s.st ≠ .ready
      | .write _ => s.st ≠ .ready
      | .destroy => False) →
    exec i s = .next { s with trace := s.trace ++ [.respond .stateError] }

/-- A command that no reset strikes ends with exactly one response, after all its events, of a kind its state allows,
and `ST` moves as the table says (10_state R25; 20_memory R80; 30_encoding R90, R93; 60_exceptions R213). -/
def Obligations.OneResponseAndTransition : Prop :=
  ∀ (i : Instr) (s t : State), s.cut = none → exec i s = .next t →
    ∃ es r, t.trace = s.trace ++ es ++ [.respond r] ∧ (∀ e ∈ es, e.isResponse = false) ∧
      s.st.allows i r ∧ t.st = s.st.after i r

/-- `Failed` and `Released` are terminal: no command leaves them; only a hardware reset does, alone or inside a command,
and it leads to `Uninitialized` (10_state R26). -/
def Obligations.TerminalStates : Prop :=
  (∀ (i : Instr) (s t : State), s.st = .failed ∨ s.st = .released → exec i s = .next t → t.st = s.st) ∧
  (∀ s t : State, s.st = .failed ∨ s.st = .released → step s = .next t →
    t.st = s.st ∨
    (t.st = .uninitialized ∧
      ∃ rest, s.inbox = .reset :: rest ∨ ∃ frame n, s.inbox = .submit frame (some n) :: rest))

/-- `PIN`, `NS` and `CAP` are written by CONSTRUCT in `Uninitialized` and by nothing else (10_state R20). -/
def Obligations.PersistentRegistersFixed : Prop :=
  ∀ (i : Instr) (s t : State), exec i s = .next t →
    ((∀ p0 p1 p2 p3 n, i ≠ .construct p0 p1 p2 p3 n) ∨ s.st ≠ .uninitialized) →
    t.pin = s.pin ∧ t.ns = s.ns ∧ t.cap = s.cap

/-- No command issues a transaction on a pin outside `PIN[0..3]` (20_memory R54). -/
def Obligations.OnlyThePinSetAddressed : Prop :=
  ∀ (i : Instr) (s t : State), exec i s = .next t →
    ∃ es, t.trace = s.trace ++ es ∧ ∀ e ∈ es, ∀ p ∈ e.pins, p ∈ t.pin.toList

/-- The transactions and delays of each command when every answer is `ok`: `Cfg`, `Set`, `SetM`, `Rel`, `Wait`
(20_memory R62). -/
def Obligations.TransactionCounts : Prop :=
  (∀ (p0 p1 p2 p3 n : Nat) (s : State), s.st = .uninitialized → s.accepts 4 →
    ∃ t es, exec (.construct p0 p1 p2 p3 n) s = .next t ∧ t.trace = s.trace ++ es ∧ eventCounts es = [4, 0, 0, 0, 0]) ∧
  (∀ s : State, s.st = .ready → s.accepts 0 →
    ∃ t es, exec .capacity s = .next t ∧ t.trace = s.trace ++ es ∧ eventCounts es = [0, 0, 0, 0, 0]) ∧
  (∀ s : State, s.st = .ready → s.accepts 2 →
    ∃ t es, exec .clear s = .next t ∧ t.trace = s.trace ++ es ∧ eventCounts es = [0, 2, 0, 0, 1]) ∧
  (∀ (data : Nat) (s : State), s.st = .ready → data < 2 ^ s.cap → s.accepts (4 * s.cap + 5) →
    ∃ t es, exec (.write data) s = .next t ∧ t.trace = s.trace ++ es ∧
      eventCounts es = [0, 4 * s.cap + 5, 0, 0, 2 * s.cap + 3]) ∧
  (∀ s : State, s.st = .ready → s.accepts 10 →
    ∃ t es, exec .destroy s = .next t ∧ t.trace = s.trace ++ es ∧ eventCounts es = [0, 5, 1, 4, 3]) ∧
  (∀ (r : Role) (s : State), s.accepts 3 →
    ∃ t es, State.pulse r s = .ok t ∧ t.trace = s.trace ++ es ∧ eventCounts es = [0, 3, 0, 0, 2])

/-- A command all of whose transactions are answered ends; one that stops waits for an answer that never comes, and only
then (70_reset R251, 20_memory R85). -/
def Obligations.AnsweredCommandsEnd : Prop :=
  (∀ (i : Instr) (s : State), s.answered → ∃ t, exec i s = .next t) ∧
  (∀ (i : Instr) (s : State) (f : Fault), exec i s = .fault f → f = .noAnswer ∧ Answer.silent ∈ s.answers) ∧
  (∀ (s : State) (rest : List Answer), s.st = .ready → s.cut = none → s.answers = .silent :: rest →
    exec .clear s = .fault .noAnswer)

/-- A good run stays good: a command its state permits, with every transaction answered `ok`, ends and returns no
response of the kinds the spec advises to class as faults; a rejected argument is not one of them (60_exceptions R206,
R207, R208; the classing is notes/assumptions/14.md). -/
def Obligations.PermittedCommandsKeepRunGood : Prop :=
  ∀ (i : Instr) (s : State), s.cut = none → (∀ a ∈ s.answers, a = Answer.ok) → s.good = true →
    (match i with
      | .construct _ _ _ _ _ => s.st = .uninitialized
      | .capacity => s.st = .ready
      | .clear => s.st = .ready
      | .write _ => s.st = .ready
      | .destroy => True) →
    ∃ t, exec i s = .next t ∧ t.good = true

/-- SRBB reads nothing back: two states that differ only in the pins and the load answer every command alike, with the
same trace, registers and responses (00_scope R6; 10_state R33; 20_memory R61). -/
def Obligations.NothingIsReadBack : Prop :=
  ∀ (i : Instr) (s t : State), s.SameInside t → StepResult.Alike State.SameInside (exec i s) (exec i t)

/-- No command reads a value another command left in a transient register: two states that differ only in `DSR`, `MASK`,
`BITCNT` and `ACQ` answer every command alike (10_state section 3). -/
def Obligations.TransientRegistersUnread : Prop :=
  ∀ (i : Instr) (s t : State), s.SameLasting t → StepResult.Alike State.SameLasting (exec i s) (exec i t)

/-- No command depends on what `PIN`, `NS` and `CAP` hold before they have been written, so that whatever they hold after
reset cannot be observed, over any number of commands: two states that differ in these alone, and in `Ready` in nothing,
answer every command with the same outcome, in states that again differ so (10_state R34, "every rule that reads one is
guarded by `ST = Ready`, under which it has been written"). -/
def Obligations.UnwrittenRegistersUnread : Prop :=
  ∀ (i : Instr) (s t : State), s.SameWritten t → StepResult.Alike State.SameWritten (exec i s) (exec i t)

/-- The invariant holds after power-up. -/
def Obligations.InvariantAtReset : Prop := State.reset.Inv

/-- Every step keeps the invariant: the canonical pin space, the capacity formula, the ownership of all four pins in
`Ready`, and the rest levels of the clocks and of `clear` (10_state R23; 20_memory R52; 44_pulse R187, R190). -/
def Obligations.StepKeepsInvariant : Prop :=
  ∀ s t : State, s.Inv → step s = .next t → t.Inv
end

