-- ==== Sys2Proof/Laws/PinSpace.lean ====
section
/-! SUPPORT. The laws of the pin space: a read after a write, every other pin left alone, and the canonical form kept
by every operation. -/

namespace Sys2Proof.Machine

@[simp] theorem PinSpace.get_nil (p : Nat) : PinSpace.get [] p = .fresh := rfl

theorem PinSpace.get_erase (m : PinSpace) (p q : Nat) :
    (m.erase p).get q = if q = p then .fresh else m.get q := by
  induction m with
  | nil => simp [PinSpace.erase, PinSpace.get]
  | cons e m ih =>
    obtain ⟨r, c⟩ := e
    unfold PinSpace.erase at ih ⊢
    by_cases hr : r = p
    · subst hr
      by_cases hq : q = r <;> simp_all [PinSpace.get, Ne.symm]
    · by_cases hq : r = q
      · subst hq; simp_all [PinSpace.get]
      · simp_all [PinSpace.get]

theorem PinSpace.get_place (m : PinSpace) (p : Nat) (c : PinCell) (h : ∀ e ∈ m, e.1 ≠ p) (q : Nat) :
    (m.place p c).get q = if q = p then c else m.get q := by
  induction m with
  | nil => simp [PinSpace.place, PinSpace.get, eq_comm]
  | cons e m ih =>
    obtain ⟨r, d⟩ := e
    have hr : r ≠ p := h (r, d) (by simp)
    have ih := ih (fun e he => h e (by simp [he]))
    unfold PinSpace.place
    by_cases hq : p = q
    · subst hq
      split <;> simp_all [PinSpace.get]
    · have hq' : ¬ q = p := fun e => hq e.symm
      split <;> simp_all [PinSpace.get]

theorem PinSpace.key_ne_of_mem_erase {m : PinSpace} {p : Nat} {e : Nat × PinCell} (h : e ∈ m.erase p) : e.1 ≠ p := by
  simpa using (List.mem_filter.mp h).2

/-- A write sets the cell of its pin and leaves every other pin's alone. -/
@[simp] theorem PinSpace.get_put (m : PinSpace) (p : Nat) (c : PinCell) (q : Nat) :
    (m.put p c).get q = if q = p then c else m.get q := by
  unfold PinSpace.put
  split
  · rename_i h; rw [PinSpace.get_erase, h]
  · rw [PinSpace.get_place _ _ _ (fun _ he => PinSpace.key_ne_of_mem_erase he), PinSpace.get_erase]
    split <;> rfl

theorem PinSpace.wf_erase {m : PinSpace} (h : m.wf) (p : Nat) : (m.erase p).wf :=
  ⟨h.1.filter _, fun e he => h.2 e (List.mem_filter.mp he).1⟩

theorem PinSpace.mem_place {m : PinSpace} {p : Nat} {c : PinCell} {e : Nat × PinCell} :
    e ∈ m.place p c ↔ e = (p, c) ∨ e ∈ m := by
  induction m with
  | nil => simp [PinSpace.place]
  | cons x m ih =>
    unfold PinSpace.place
    split
    · simp
    · rw [List.mem_cons, ih, List.mem_cons]; tauto

theorem PinSpace.wf_place {m : PinSpace} (h : m.wf) {p : Nat} {c : PinCell} (hc : c ≠ .fresh)
    (hp : ∀ e ∈ m, e.1 ≠ p) : (m.place p c).wf := by
  refine ⟨?_, fun e he => ?_⟩
  · have hs := h.1
    clear h
    induction m with
    | nil => simp [PinSpace.place]
    | cons x m ih =>
      have hx : x.1 ≠ p := hp x (by simp)
      rw [List.pairwise_cons] at hs
      unfold PinSpace.place
      split
      · rename_i hlt
        simp only [List.pairwise_cons]
        refine ⟨fun e he => ?_, hs⟩
        rcases List.mem_cons.mp he with rfl | he
        · exact hlt
        · exact lt_trans hlt (hs.1 e he)
      · rename_i hge
        rw [List.pairwise_cons]
        refine ⟨fun e he => ?_, ih (fun e he => hp e (by simp [he])) hs.2⟩
        rcases PinSpace.mem_place.mp he with rfl | he
        · exact lt_of_le_of_ne (not_lt.mp hge) hx
        · exact hs.1 e he
  · rcases PinSpace.mem_place.mp he with rfl | he
    · exact hc
    · exact h.2 e he

/-- Every write of the pin space keeps the canonical form. -/
theorem PinSpace.wf_put {m : PinSpace} (h : m.wf) (p : Nat) (c : PinCell) : (m.put p c).wf := by
  unfold PinSpace.put
  split
  · exact PinSpace.wf_erase h p
  · rename_i hc
    exact PinSpace.wf_place (PinSpace.wf_erase h p) hc (fun _ he => PinSpace.key_ne_of_mem_erase he)

theorem State.reset_wf : State.reset.space.wf := by decide

/-! Reading `OWNED` and `LEVEL` after a write of either. -/

@[simp] theorem State.owned_setOwned (s : State) (p : Nat) (o : Option Bool) (q : Nat) :
    (s.setOwned p o).owned q = if q = p then o else s.owned q := by
  simp only [State.owned, State.setOwned, PinSpace.get_put]; split <;> rfl

@[simp] theorem State.level_setOwned (s : State) (p : Nat) (o : Option Bool) (q : Nat) :
    (s.setOwned p o).level q = s.level q := by
  simp only [State.level, State.setOwned, PinSpace.get_put]
  split
  · rename_i h; rw [h]
  · rfl

@[simp] theorem State.level_setLevel (s : State) (p : Nat) (l : Option Level) (q : Nat) :
    (s.setLevel p l).level q = if q = p then l else s.level q := by
  simp only [State.level, State.setLevel, PinSpace.get_put]; split <;> rfl

@[simp] theorem State.owned_setLevel (s : State) (p : Nat) (l : Option Level) (q : Nat) :
    (s.setLevel p l).owned q = s.owned q := by
  simp only [State.owned, State.setLevel, PinSpace.get_put]
  split
  · rename_i h; rw [h]
  · rfl

theorem State.wf_setOwned {s : State} (h : s.space.wf) (p : Nat) (o : Option Bool) : (s.setOwned p o).space.wf :=
  PinSpace.wf_put h _ _

theorem State.wf_setLevel {s : State} (h : s.space.wf) (p : Nat) (l : Option Level) : (s.setLevel p l).space.wf :=
  PinSpace.wf_put h _ _

end Sys2Proof.Machine
end

