-- ==== Sys2Proof/Laws/State.lean ====
section
/-! SUPPORT. What each named update of State does to each field, so that no later proof unfolds a record update. -/

namespace Sys2Proof.Machine

@[simp] theorem State.setOwned_st (s : State) (p : Nat) (o : Option Bool) : (s.setOwned p o).st = s.st := rfl
@[simp] theorem State.setOwned_pin (s : State) (p : Nat) (o : Option Bool) : (s.setOwned p o).pin = s.pin := rfl
@[simp] theorem State.setOwned_ns (s : State) (p : Nat) (o : Option Bool) : (s.setOwned p o).ns = s.ns := rfl
@[simp] theorem State.setOwned_cap (s : State) (p : Nat) (o : Option Bool) : (s.setOwned p o).cap = s.cap := rfl
@[simp] theorem State.setOwned_dsr (s : State) (p : Nat) (o : Option Bool) : (s.setOwned p o).dsr = s.dsr := rfl
@[simp] theorem State.setOwned_mask (s : State) (p : Nat) (o : Option Bool) : (s.setOwned p o).mask = s.mask := rfl
@[simp] theorem State.setOwned_bitcnt (s : State) (p : Nat) (o : Option Bool) : (s.setOwned p o).bitcnt = s.bitcnt := rfl
@[simp] theorem State.setOwned_acq (s : State) (p : Nat) (o : Option Bool) : (s.setOwned p o).acq = s.acq := rfl
@[simp] theorem State.setOwned_seq (s : State) (p : Nat) (o : Option Bool) : (s.setOwned p o).seq = s.seq := rfl
@[simp] theorem State.setOwned_shift (s : State) (p : Nat) (o : Option Bool) : (s.setOwned p o).shift = s.shift := rfl
@[simp] theorem State.setOwned_out (s : State) (p : Nat) (o : Option Bool) : (s.setOwned p o).out = s.out := rfl
@[simp] theorem State.setOwned_trace (s : State) (p : Nat) (o : Option Bool) : (s.setOwned p o).trace = s.trace := rfl
@[simp] theorem State.setOwned_inbox (s : State) (p : Nat) (o : Option Bool) : (s.setOwned p o).inbox = s.inbox := rfl
@[simp] theorem State.setOwned_answers (s : State) (p : Nat) (o : Option Bool) : (s.setOwned p o).answers = s.answers := rfl
@[simp] theorem State.setOwned_cut (s : State) (p : Nat) (o : Option Bool) : (s.setOwned p o).cut = s.cut := rfl

@[simp] theorem State.setLevel_st (s : State) (p : Nat) (l : Option Level) : (s.setLevel p l).st = s.st := rfl
@[simp] theorem State.setLevel_pin (s : State) (p : Nat) (l : Option Level) : (s.setLevel p l).pin = s.pin := rfl
@[simp] theorem State.setLevel_ns (s : State) (p : Nat) (l : Option Level) : (s.setLevel p l).ns = s.ns := rfl
@[simp] theorem State.setLevel_cap (s : State) (p : Nat) (l : Option Level) : (s.setLevel p l).cap = s.cap := rfl
@[simp] theorem State.setLevel_dsr (s : State) (p : Nat) (l : Option Level) : (s.setLevel p l).dsr = s.dsr := rfl
@[simp] theorem State.setLevel_mask (s : State) (p : Nat) (l : Option Level) : (s.setLevel p l).mask = s.mask := rfl
@[simp] theorem State.setLevel_bitcnt (s : State) (p : Nat) (l : Option Level) : (s.setLevel p l).bitcnt = s.bitcnt := rfl
@[simp] theorem State.setLevel_acq (s : State) (p : Nat) (l : Option Level) : (s.setLevel p l).acq = s.acq := rfl
@[simp] theorem State.setLevel_seq (s : State) (p : Nat) (l : Option Level) : (s.setLevel p l).seq = s.seq := rfl
@[simp] theorem State.setLevel_shift (s : State) (p : Nat) (l : Option Level) : (s.setLevel p l).shift = s.shift := rfl
@[simp] theorem State.setLevel_out (s : State) (p : Nat) (l : Option Level) : (s.setLevel p l).out = s.out := rfl
@[simp] theorem State.setLevel_trace (s : State) (p : Nat) (l : Option Level) : (s.setLevel p l).trace = s.trace := rfl
@[simp] theorem State.setLevel_inbox (s : State) (p : Nat) (l : Option Level) : (s.setLevel p l).inbox = s.inbox := rfl
@[simp] theorem State.setLevel_answers (s : State) (p : Nat) (l : Option Level) : (s.setLevel p l).answers = s.answers := rfl
@[simp] theorem State.setLevel_cut (s : State) (p : Nat) (l : Option Level) : (s.setLevel p l).cut = s.cut := rfl

@[simp] theorem State.comeUp_st (s : State) (p : Nat) : (s.comeUp p).st = s.st := rfl
@[simp] theorem State.comeUp_pin (s : State) (p : Nat) : (s.comeUp p).pin = s.pin := rfl
@[simp] theorem State.comeUp_ns (s : State) (p : Nat) : (s.comeUp p).ns = s.ns := rfl
@[simp] theorem State.comeUp_cap (s : State) (p : Nat) : (s.comeUp p).cap = s.cap := rfl
@[simp] theorem State.comeUp_dsr (s : State) (p : Nat) : (s.comeUp p).dsr = s.dsr := rfl
@[simp] theorem State.comeUp_mask (s : State) (p : Nat) : (s.comeUp p).mask = s.mask := rfl
@[simp] theorem State.comeUp_bitcnt (s : State) (p : Nat) : (s.comeUp p).bitcnt = s.bitcnt := rfl
@[simp] theorem State.comeUp_acq (s : State) (p : Nat) : (s.comeUp p).acq = s.acq := rfl
@[simp] theorem State.comeUp_seq (s : State) (p : Nat) : (s.comeUp p).seq = s.seq := rfl
@[simp] theorem State.comeUp_shift (s : State) (p : Nat) : (s.comeUp p).shift = s.freshShift p := rfl
@[simp] theorem State.comeUp_out (s : State) (p : Nat) : (s.comeUp p).out = s.out := rfl
@[simp] theorem State.comeUp_trace (s : State) (p : Nat) : (s.comeUp p).trace = s.trace := rfl
@[simp] theorem State.comeUp_inbox (s : State) (p : Nat) : (s.comeUp p).inbox = s.inbox := rfl
@[simp] theorem State.comeUp_answers (s : State) (p : Nat) : (s.comeUp p).answers = s.answers := rfl
@[simp] theorem State.comeUp_cut (s : State) (p : Nat) : (s.comeUp p).cut = s.cut := rfl

@[simp] theorem State.forgetLoad_st (s : State) : (s.forgetLoad).st = s.st := rfl
@[simp] theorem State.forgetLoad_pin (s : State) : (s.forgetLoad).pin = s.pin := rfl
@[simp] theorem State.forgetLoad_ns (s : State) : (s.forgetLoad).ns = s.ns := rfl
@[simp] theorem State.forgetLoad_cap (s : State) : (s.forgetLoad).cap = s.cap := rfl
@[simp] theorem State.forgetLoad_dsr (s : State) : (s.forgetLoad).dsr = s.dsr := rfl
@[simp] theorem State.forgetLoad_mask (s : State) : (s.forgetLoad).mask = s.mask := rfl
@[simp] theorem State.forgetLoad_bitcnt (s : State) : (s.forgetLoad).bitcnt = s.bitcnt := rfl
@[simp] theorem State.forgetLoad_acq (s : State) : (s.forgetLoad).acq = s.acq := rfl
@[simp] theorem State.forgetLoad_seq (s : State) : (s.forgetLoad).seq = s.seq := rfl
@[simp] theorem State.forgetLoad_space (s : State) : (s.forgetLoad).space = s.space := rfl
@[simp] theorem State.forgetLoad_shift (s : State) : (s.forgetLoad).shift = none := rfl
@[simp] theorem State.forgetLoad_out (s : State) : (s.forgetLoad).out = none := rfl
@[simp] theorem State.forgetLoad_trace (s : State) : (s.forgetLoad).trace = s.trace := rfl
@[simp] theorem State.forgetLoad_inbox (s : State) : (s.forgetLoad).inbox = s.inbox := rfl
@[simp] theorem State.forgetLoad_answers (s : State) : (s.forgetLoad).answers = s.answers := rfl
@[simp] theorem State.forgetLoad_cut (s : State) : (s.forgetLoad).cut = s.cut := rfl
@[simp] theorem State.forgetLoad_owned (s : State) (q : Nat) : (s.forgetLoad).owned q = s.owned q := rfl
@[simp] theorem State.forgetLoad_level (s : State) (q : Nat) : (s.forgetLoad).level q = s.level q := rfl

@[simp] theorem State.record_st (s : State) (e : Event) : (s.record e).st = s.st := rfl
@[simp] theorem State.record_pin (s : State) (e : Event) : (s.record e).pin = s.pin := rfl
@[simp] theorem State.record_ns (s : State) (e : Event) : (s.record e).ns = s.ns := rfl
@[simp] theorem State.record_cap (s : State) (e : Event) : (s.record e).cap = s.cap := rfl
@[simp] theorem State.record_dsr (s : State) (e : Event) : (s.record e).dsr = s.dsr := rfl
@[simp] theorem State.record_mask (s : State) (e : Event) : (s.record e).mask = s.mask := rfl
@[simp] theorem State.record_bitcnt (s : State) (e : Event) : (s.record e).bitcnt = s.bitcnt := rfl
@[simp] theorem State.record_acq (s : State) (e : Event) : (s.record e).acq = s.acq := rfl
@[simp] theorem State.record_seq (s : State) (e : Event) : (s.record e).seq = s.seq + 1 := rfl
@[simp] theorem State.record_space (s : State) (e : Event) : (s.record e).space = s.space := rfl
@[simp] theorem State.record_shift (s : State) (e : Event) : (s.record e).shift = s.shift := rfl
@[simp] theorem State.record_out (s : State) (e : Event) : (s.record e).out = s.out := rfl
@[simp] theorem State.record_trace (s : State) (e : Event) : (s.record e).trace = s.trace ++ [e] := rfl
@[simp] theorem State.record_inbox (s : State) (e : Event) : (s.record e).inbox = s.inbox := rfl
@[simp] theorem State.record_answers (s : State) (e : Event) : (s.record e).answers = s.answers := rfl
@[simp] theorem State.record_cut (s : State) (e : Event) : (s.record e).cut = s.cut := rfl
@[simp] theorem State.record_owned (s : State) (e : Event) (q : Nat) : (s.record e).owned q = s.owned q := rfl
@[simp] theorem State.record_level (s : State) (e : Event) (q : Nat) : (s.record e).level q = s.level q := rfl

@[simp] theorem State.dropAnswer_st (s : State) : (s.dropAnswer).st = s.st := rfl
@[simp] theorem State.dropAnswer_pin (s : State) : (s.dropAnswer).pin = s.pin := rfl
@[simp] theorem State.dropAnswer_ns (s : State) : (s.dropAnswer).ns = s.ns := rfl
@[simp] theorem State.dropAnswer_cap (s : State) : (s.dropAnswer).cap = s.cap := rfl
@[simp] theorem State.dropAnswer_dsr (s : State) : (s.dropAnswer).dsr = s.dsr := rfl
@[simp] theorem State.dropAnswer_mask (s : State) : (s.dropAnswer).mask = s.mask := rfl
@[simp] theorem State.dropAnswer_bitcnt (s : State) : (s.dropAnswer).bitcnt = s.bitcnt := rfl
@[simp] theorem State.dropAnswer_acq (s : State) : (s.dropAnswer).acq = s.acq := rfl
@[simp] theorem State.dropAnswer_seq (s : State) : (s.dropAnswer).seq = s.seq := rfl
@[simp] theorem State.dropAnswer_space (s : State) : (s.dropAnswer).space = s.space := rfl
@[simp] theorem State.dropAnswer_shift (s : State) : (s.dropAnswer).shift = s.shift := rfl
@[simp] theorem State.dropAnswer_out (s : State) : (s.dropAnswer).out = s.out := rfl
@[simp] theorem State.dropAnswer_trace (s : State) : (s.dropAnswer).trace = s.trace := rfl
@[simp] theorem State.dropAnswer_inbox (s : State) : (s.dropAnswer).inbox = s.inbox := rfl
@[simp] theorem State.dropAnswer_answers (s : State) : (s.dropAnswer).answers = s.answers.tail := rfl
@[simp] theorem State.dropAnswer_cut (s : State) : (s.dropAnswer).cut = s.cut := rfl
@[simp] theorem State.dropAnswer_owned (s : State) (q : Nat) : (s.dropAnswer).owned q = s.owned q := rfl
@[simp] theorem State.dropAnswer_level (s : State) (q : Nat) : (s.dropAnswer).level q = s.level q := rfl

@[simp] theorem State.begin_st (s : State) (c : Option Nat) : (s.begin c).st = s.st := rfl
@[simp] theorem State.begin_pin (s : State) (c : Option Nat) : (s.begin c).pin = s.pin := rfl
@[simp] theorem State.begin_ns (s : State) (c : Option Nat) : (s.begin c).ns = s.ns := rfl
@[simp] theorem State.begin_cap (s : State) (c : Option Nat) : (s.begin c).cap = s.cap := rfl
@[simp] theorem State.begin_dsr (s : State) (c : Option Nat) : (s.begin c).dsr = s.dsr := rfl
@[simp] theorem State.begin_mask (s : State) (c : Option Nat) : (s.begin c).mask = s.mask := rfl
@[simp] theorem State.begin_bitcnt (s : State) (c : Option Nat) : (s.begin c).bitcnt = s.bitcnt := rfl
@[simp] theorem State.begin_acq (s : State) (c : Option Nat) : (s.begin c).acq = s.acq := rfl
@[simp] theorem State.begin_seq (s : State) (c : Option Nat) : (s.begin c).seq = 0 := rfl
@[simp] theorem State.begin_space (s : State) (c : Option Nat) : (s.begin c).space = s.space := rfl
@[simp] theorem State.begin_shift (s : State) (c : Option Nat) : (s.begin c).shift = s.shift := rfl
@[simp] theorem State.begin_out (s : State) (c : Option Nat) : (s.begin c).out = s.out := rfl
@[simp] theorem State.begin_trace (s : State) (c : Option Nat) : (s.begin c).trace = s.trace := rfl
@[simp] theorem State.begin_inbox (s : State) (c : Option Nat) : (s.begin c).inbox = s.inbox := rfl
@[simp] theorem State.begin_answers (s : State) (c : Option Nat) : (s.begin c).answers = s.answers := rfl
@[simp] theorem State.begin_cut (s : State) (c : Option Nat) : (s.begin c).cut = c := rfl
@[simp] theorem State.begin_owned (s : State) (c : Option Nat) (q : Nat) : (s.begin c).owned q = s.owned q := rfl
@[simp] theorem State.begin_level (s : State) (c : Option Nat) (q : Nat) : (s.begin c).level q = s.level q := rfl

@[simp] theorem State.hardwareReset_st (s : State) : (s.hardwareReset).st = .uninitialized := rfl
@[simp] theorem State.hardwareReset_pin (s : State) : (s.hardwareReset).pin = .unset := rfl
@[simp] theorem State.hardwareReset_ns (s : State) : (s.hardwareReset).ns = 0 := rfl
@[simp] theorem State.hardwareReset_cap (s : State) : (s.hardwareReset).cap = 0 := rfl
@[simp] theorem State.hardwareReset_dsr (s : State) : (s.hardwareReset).dsr = 0 := rfl
@[simp] theorem State.hardwareReset_mask (s : State) : (s.hardwareReset).mask = 0 := rfl
@[simp] theorem State.hardwareReset_bitcnt (s : State) : (s.hardwareReset).bitcnt = 0 := rfl
@[simp] theorem State.hardwareReset_acq (s : State) : (s.hardwareReset).acq = 0 := rfl
@[simp] theorem State.hardwareReset_seq (s : State) : (s.hardwareReset).seq = 0 := rfl
@[simp] theorem State.hardwareReset_space (s : State) : (s.hardwareReset).space = s.space := rfl
@[simp] theorem State.hardwareReset_shift (s : State) : (s.hardwareReset).shift = s.shift := rfl
@[simp] theorem State.hardwareReset_out (s : State) : (s.hardwareReset).out = s.out := rfl
@[simp] theorem State.hardwareReset_trace (s : State) : (s.hardwareReset).trace = s.trace := rfl
@[simp] theorem State.hardwareReset_inbox (s : State) : (s.hardwareReset).inbox = s.inbox := rfl
@[simp] theorem State.hardwareReset_answers (s : State) : (s.hardwareReset).answers = s.answers := rfl
@[simp] theorem State.hardwareReset_cut (s : State) : (s.hardwareReset).cut = none := rfl
@[simp] theorem State.hardwareReset_owned (s : State) (q : Nat) : (s.hardwareReset).owned q = s.owned q := rfl
@[simp] theorem State.hardwareReset_level (s : State) (q : Nat) : (s.hardwareReset).level q = s.level q := rfl

@[simp] theorem State.adopt_st (s : State) (ps : PinSet) (n : Int) : (s.adopt ps n).st = s.st := rfl
@[simp] theorem State.adopt_pin (s : State) (ps : PinSet) (n : Int) : (s.adopt ps n).pin = ps := rfl
@[simp] theorem State.adopt_ns (s : State) (ps : PinSet) (n : Int) : (s.adopt ps n).ns = n.toNat := rfl
@[simp] theorem State.adopt_cap (s : State) (ps : PinSet) (n : Int) : (s.adopt ps n).cap = capacityOf n.toNat := rfl
@[simp] theorem State.adopt_dsr (s : State) (ps : PinSet) (n : Int) : (s.adopt ps n).dsr = s.dsr := rfl
@[simp] theorem State.adopt_mask (s : State) (ps : PinSet) (n : Int) : (s.adopt ps n).mask = s.mask := rfl
@[simp] theorem State.adopt_bitcnt (s : State) (ps : PinSet) (n : Int) : (s.adopt ps n).bitcnt = s.bitcnt := rfl
@[simp] theorem State.adopt_acq (s : State) (ps : PinSet) (n : Int) : (s.adopt ps n).acq = 0 := rfl
@[simp] theorem State.adopt_seq (s : State) (ps : PinSet) (n : Int) : (s.adopt ps n).seq = s.seq := rfl
@[simp] theorem State.adopt_space (s : State) (ps : PinSet) (n : Int) : (s.adopt ps n).space = s.space := rfl
@[simp] theorem State.adopt_shift (s : State) (ps : PinSet) (n : Int) : (s.adopt ps n).shift = s.shift := rfl
@[simp] theorem State.adopt_out (s : State) (ps : PinSet) (n : Int) : (s.adopt ps n).out = s.out := rfl
@[simp] theorem State.adopt_trace (s : State) (ps : PinSet) (n : Int) : (s.adopt ps n).trace = s.trace := rfl
@[simp] theorem State.adopt_inbox (s : State) (ps : PinSet) (n : Int) : (s.adopt ps n).inbox = s.inbox := rfl
@[simp] theorem State.adopt_answers (s : State) (ps : PinSet) (n : Int) : (s.adopt ps n).answers = s.answers := rfl
@[simp] theorem State.adopt_cut (s : State) (ps : PinSet) (n : Int) : (s.adopt ps n).cut = s.cut := rfl
@[simp] theorem State.adopt_owned (s : State) (ps : PinSet) (n : Int) (q : Nat) : (s.adopt ps n).owned q = s.owned q := rfl
@[simp] theorem State.adopt_level (s : State) (ps : PinSet) (n : Int) (q : Nat) : (s.adopt ps n).level q = s.level q := rfl

@[simp] theorem State.countPin_st (s : State) : (s.countPin).st = s.st := rfl
@[simp] theorem State.countPin_pin (s : State) : (s.countPin).pin = s.pin := rfl
@[simp] theorem State.countPin_ns (s : State) : (s.countPin).ns = s.ns := rfl
@[simp] theorem State.countPin_cap (s : State) : (s.countPin).cap = s.cap := rfl
@[simp] theorem State.countPin_dsr (s : State) : (s.countPin).dsr = s.dsr := rfl
@[simp] theorem State.countPin_mask (s : State) : (s.countPin).mask = s.mask := rfl
@[simp] theorem State.countPin_bitcnt (s : State) : (s.countPin).bitcnt = s.bitcnt := rfl
@[simp] theorem State.countPin_acq (s : State) : (s.countPin).acq = s.acq + 1 := rfl
@[simp] theorem State.countPin_seq (s : State) : (s.countPin).seq = s.seq := rfl
@[simp] theorem State.countPin_space (s : State) : (s.countPin).space = s.space := rfl
@[simp] theorem State.countPin_shift (s : State) : (s.countPin).shift = s.shift := rfl
@[simp] theorem State.countPin_out (s : State) : (s.countPin).out = s.out := rfl
@[simp] theorem State.countPin_trace (s : State) : (s.countPin).trace = s.trace := rfl
@[simp] theorem State.countPin_inbox (s : State) : (s.countPin).inbox = s.inbox := rfl
@[simp] theorem State.countPin_answers (s : State) : (s.countPin).answers = s.answers := rfl
@[simp] theorem State.countPin_cut (s : State) : (s.countPin).cut = s.cut := rfl
@[simp] theorem State.countPin_owned (s : State) (q : Nat) : (s.countPin).owned q = s.owned q := rfl
@[simp] theorem State.countPin_level (s : State) (q : Nat) : (s.countPin).level q = s.level q := rfl

@[simp] theorem State.enter_st (s : State) (l : Lifecycle) : (s.enter l).st = l := rfl
@[simp] theorem State.enter_pin (s : State) (l : Lifecycle) : (s.enter l).pin = s.pin := rfl
@[simp] theorem State.enter_ns (s : State) (l : Lifecycle) : (s.enter l).ns = s.ns := rfl
@[simp] theorem State.enter_cap (s : State) (l : Lifecycle) : (s.enter l).cap = s.cap := rfl
@[simp] theorem State.enter_dsr (s : State) (l : Lifecycle) : (s.enter l).dsr = s.dsr := rfl
@[simp] theorem State.enter_mask (s : State) (l : Lifecycle) : (s.enter l).mask = s.mask := rfl
@[simp] theorem State.enter_bitcnt (s : State) (l : Lifecycle) : (s.enter l).bitcnt = s.bitcnt := rfl
@[simp] theorem State.enter_acq (s : State) (l : Lifecycle) : (s.enter l).acq = s.acq := rfl
@[simp] theorem State.enter_seq (s : State) (l : Lifecycle) : (s.enter l).seq = s.seq := rfl
@[simp] theorem State.enter_space (s : State) (l : Lifecycle) : (s.enter l).space = s.space := rfl
@[simp] theorem State.enter_shift (s : State) (l : Lifecycle) : (s.enter l).shift = s.shift := rfl
@[simp] theorem State.enter_out (s : State) (l : Lifecycle) : (s.enter l).out = s.out := rfl
@[simp] theorem State.enter_trace (s : State) (l : Lifecycle) : (s.enter l).trace = s.trace := rfl
@[simp] theorem State.enter_inbox (s : State) (l : Lifecycle) : (s.enter l).inbox = s.inbox := rfl
@[simp] theorem State.enter_answers (s : State) (l : Lifecycle) : (s.enter l).answers = s.answers := rfl
@[simp] theorem State.enter_cut (s : State) (l : Lifecycle) : (s.enter l).cut = s.cut := rfl
@[simp] theorem State.enter_owned (s : State) (l : Lifecycle) (q : Nat) : (s.enter l).owned q = s.owned q := rfl
@[simp] theorem State.enter_level (s : State) (l : Lifecycle) (q : Nat) : (s.enter l).level q = s.level q := rfl

@[simp] theorem State.loadShifter_st (s : State) (d : Nat) : (s.loadShifter d).st = s.st := rfl
@[simp] theorem State.loadShifter_pin (s : State) (d : Nat) : (s.loadShifter d).pin = s.pin := rfl
@[simp] theorem State.loadShifter_ns (s : State) (d : Nat) : (s.loadShifter d).ns = s.ns := rfl
@[simp] theorem State.loadShifter_cap (s : State) (d : Nat) : (s.loadShifter d).cap = s.cap := rfl
@[simp] theorem State.loadShifter_dsr (s : State) (d : Nat) : (s.loadShifter d).dsr = d := rfl
@[simp] theorem State.loadShifter_mask (s : State) (d : Nat) : (s.loadShifter d).mask = msbMask s.cap := rfl
@[simp] theorem State.loadShifter_bitcnt (s : State) (d : Nat) : (s.loadShifter d).bitcnt = s.cap := rfl
@[simp] theorem State.loadShifter_acq (s : State) (d : Nat) : (s.loadShifter d).acq = s.acq := rfl
@[simp] theorem State.loadShifter_seq (s : State) (d : Nat) : (s.loadShifter d).seq = s.seq := rfl
@[simp] theorem State.loadShifter_space (s : State) (d : Nat) : (s.loadShifter d).space = s.space := rfl
@[simp] theorem State.loadShifter_shift (s : State) (d : Nat) : (s.loadShifter d).shift = s.shift := rfl
@[simp] theorem State.loadShifter_out (s : State) (d : Nat) : (s.loadShifter d).out = s.out := rfl
@[simp] theorem State.loadShifter_trace (s : State) (d : Nat) : (s.loadShifter d).trace = s.trace := rfl
@[simp] theorem State.loadShifter_inbox (s : State) (d : Nat) : (s.loadShifter d).inbox = s.inbox := rfl
@[simp] theorem State.loadShifter_answers (s : State) (d : Nat) : (s.loadShifter d).answers = s.answers := rfl
@[simp] theorem State.loadShifter_cut (s : State) (d : Nat) : (s.loadShifter d).cut = s.cut := rfl
@[simp] theorem State.loadShifter_owned (s : State) (d : Nat) (q : Nat) : (s.loadShifter d).owned q = s.owned q := rfl
@[simp] theorem State.loadShifter_level (s : State) (d : Nat) (q : Nat) : (s.loadShifter d).level q = s.level q := rfl

@[simp] theorem State.nextBit_st (s : State) : (s.nextBit).st = s.st := rfl
@[simp] theorem State.nextBit_pin (s : State) : (s.nextBit).pin = s.pin := rfl
@[simp] theorem State.nextBit_ns (s : State) : (s.nextBit).ns = s.ns := rfl
@[simp] theorem State.nextBit_cap (s : State) : (s.nextBit).cap = s.cap := rfl
@[simp] theorem State.nextBit_dsr (s : State) : (s.nextBit).dsr = shiftedDsr s.dsr s.cap := rfl
@[simp] theorem State.nextBit_mask (s : State) : (s.nextBit).mask = s.mask := rfl
@[simp] theorem State.nextBit_bitcnt (s : State) : (s.nextBit).bitcnt = s.bitcnt - 1 := rfl
@[simp] theorem State.nextBit_acq (s : State) : (s.nextBit).acq = s.acq := rfl
@[simp] theorem State.nextBit_seq (s : State) : (s.nextBit).seq = s.seq := rfl
@[simp] theorem State.nextBit_space (s : State) : (s.nextBit).space = s.space := rfl
@[simp] theorem State.nextBit_shift (s : State) : (s.nextBit).shift = s.shift := rfl
@[simp] theorem State.nextBit_out (s : State) : (s.nextBit).out = s.out := rfl
@[simp] theorem State.nextBit_trace (s : State) : (s.nextBit).trace = s.trace := rfl
@[simp] theorem State.nextBit_inbox (s : State) : (s.nextBit).inbox = s.inbox := rfl
@[simp] theorem State.nextBit_answers (s : State) : (s.nextBit).answers = s.answers := rfl
@[simp] theorem State.nextBit_cut (s : State) : (s.nextBit).cut = s.cut := rfl
@[simp] theorem State.nextBit_owned (s : State) (q : Nat) : (s.nextBit).owned q = s.owned q := rfl
@[simp] theorem State.nextBit_level (s : State) (q : Nat) : (s.nextBit).level q = s.level q := rfl

/-! A response changes nothing but the trace. -/

theorem State.respond_eq (s : State) (r : Response) :
    s.respond r = { s with trace := (s.respond r).trace } := by
  unfold State.respond; split <;> rfl

@[simp] theorem State.respond_st (s : State) (r : Response) : (s.respond r).st = s.st := by rw [State.respond_eq]
@[simp] theorem State.respond_pin (s : State) (r : Response) : (s.respond r).pin = s.pin := by rw [State.respond_eq]
@[simp] theorem State.respond_ns (s : State) (r : Response) : (s.respond r).ns = s.ns := by rw [State.respond_eq]
@[simp] theorem State.respond_cap (s : State) (r : Response) : (s.respond r).cap = s.cap := by rw [State.respond_eq]
@[simp] theorem State.respond_dsr (s : State) (r : Response) : (s.respond r).dsr = s.dsr := by rw [State.respond_eq]
@[simp] theorem State.respond_mask (s : State) (r : Response) : (s.respond r).mask = s.mask := by rw [State.respond_eq]
@[simp] theorem State.respond_bitcnt (s : State) (r : Response) : (s.respond r).bitcnt = s.bitcnt := by rw [State.respond_eq]
@[simp] theorem State.respond_acq (s : State) (r : Response) : (s.respond r).acq = s.acq := by rw [State.respond_eq]
@[simp] theorem State.respond_seq (s : State) (r : Response) : (s.respond r).seq = s.seq := by rw [State.respond_eq]
@[simp] theorem State.respond_space (s : State) (r : Response) : (s.respond r).space = s.space := by rw [State.respond_eq]
@[simp] theorem State.respond_shift (s : State) (r : Response) : (s.respond r).shift = s.shift := by rw [State.respond_eq]
@[simp] theorem State.respond_out (s : State) (r : Response) : (s.respond r).out = s.out := by rw [State.respond_eq]
@[simp] theorem State.respond_inbox (s : State) (r : Response) : (s.respond r).inbox = s.inbox := by rw [State.respond_eq]
@[simp] theorem State.respond_answers (s : State) (r : Response) : (s.respond r).answers = s.answers := by rw [State.respond_eq]
@[simp] theorem State.respond_cut (s : State) (r : Response) : (s.respond r).cut = s.cut := by rw [State.respond_eq]
@[simp] theorem State.respond_owned (s : State) (r : Response) (q : Nat) : (s.respond r).owned q = s.owned q := by
  rw [State.respond_eq]; rfl
@[simp] theorem State.respond_level (s : State) (r : Response) (q : Nat) : (s.respond r).level q = s.level q := by
  rw [State.respond_eq]; rfl

/-- Where no reset strikes, the response is returned. -/
theorem State.respond_trace {s : State} (h : s.cut ≠ some s.seq) (r : Response) :
    (s.respond r).trace = s.trace ++ [.respond r] := by
  simp [State.respond, h]

@[simp] theorem State.respond_of_cut_none {s : State} (h : s.cut = none) (r : Response) :
    s.respond r = { s with trace := s.trace ++ [.respond r] } := by
  simp [State.respond, h]

/-! A fresh output. -/

@[simp] theorem State.comeUp_owned (s : State) (p q : Nat) : (s.comeUp p).owned q = s.owned q :=
  s.owned_setLevel p none q
@[simp] theorem State.comeUp_level (s : State) (p q : Nat) :
    (s.comeUp p).level q = if q = p then none else s.level q :=
  s.level_setLevel p none q

/-- A fresh output leaves `SHIFT` as it was or, if it is `clear`, at 0. -/
theorem State.freshShift_cases (s : State) (p : Nat) :
    s.freshShift p = s.shift ∨ (p = s.pin.clear ∧ s.freshShift p = some 0) := by
  unfold State.freshShift
  split
  · next h => exact .inr ⟨h.1, rfl⟩
  · exact .inl rfl

/-! An answered transaction changes nothing but the pin space and the load. -/

theorem State.SameInside.refl (s : State) : s.SameInside s := rfl

theorem State.SameInside.trans {s t u : State} (h : s.SameInside t) (k : t.SameInside u) : s.SameInside u := by
  unfold State.SameInside at *; rw [← k, ← h]

theorem State.sameInside_setOwned (s : State) (p : Nat) (o : Option Bool) : s.SameInside (s.setOwned p o) := rfl

theorem State.sameInside_setLevel (s : State) (p : Nat) (l : Option Level) : s.SameInside (s.setLevel p l) := rfl

theorem State.sameInside_strobe (s : State) (r : Role) : s.SameInside (s.strobe r) := by cases r <;> rfl

theorem State.sameInside_loadDriven (s : State) (r : Role) (b : Option Level) (l : Level) :
    s.SameInside (s.loadDriven r b l) := by
  cases r <;> cases l <;> rcases b with _ | ⟨_ | _⟩ <;> rfl

theorem State.sameInside_drive (s : State) (p : Nat) (l : Level) : s.SameInside (s.drive p l) := by
  unfold State.drive
  split
  · split
    · exact (s.sameInside_setLevel p _).trans (State.sameInside_loadDriven _ _ _ _)
    · rfl
  · rfl

theorem State.sameInside_foldl {α : Type} (f : State → α → State) (hf : ∀ (s : State) (a : α), s.SameInside (f s a)) (as : List α)
    (s : State) : s.SameInside (as.foldl f s) := by
  induction as generalizing s with
  | nil => rfl
  | cons a as ih => exact (hf s a).trans (ih _)

theorem State.sameInside_driveFailed (s : State) (ps : List Nat) (es : List Role) : s.SameInside (s.driveFailed ps es) := by
  unfold State.driveFailed
  have h := State.sameInside_foldl (fun t p => State.setLevel t p none) (fun s p => s.sameInside_setLevel p none) ps s
  split
  · exact h.trans (State.sameInside_foldl _ State.sameInside_strobe _ _)
  · exact h.trans rfl

theorem State.sameInside_settled (s : State) (t : Transaction) (a : Answer) : s.SameInside (s.settled t a) := by
  cases t <;> cases a <;> first | rfl | skip
  · exact s.sameInside_drive _ _
  · exact s.sameInside_driveFailed _ _
  · exact State.sameInside_foldl _ (fun s p => s.sameInside_drive p _) _ s
  · exact s.sameInside_driveFailed _ _

@[simp] theorem State.settled_st (s : State) (t : Transaction) (a : Answer) : (s.settled t a).st = s.st := by
  rw [← State.sameInside_settled s t a]
@[simp] theorem State.settled_pin (s : State) (t : Transaction) (a : Answer) : (s.settled t a).pin = s.pin := by
  rw [← State.sameInside_settled s t a]
@[simp] theorem State.settled_ns (s : State) (t : Transaction) (a : Answer) : (s.settled t a).ns = s.ns := by
  rw [← State.sameInside_settled s t a]
@[simp] theorem State.settled_cap (s : State) (t : Transaction) (a : Answer) : (s.settled t a).cap = s.cap := by
  rw [← State.sameInside_settled s t a]
@[simp] theorem State.settled_dsr (s : State) (t : Transaction) (a : Answer) : (s.settled t a).dsr = s.dsr := by
  rw [← State.sameInside_settled s t a]
@[simp] theorem State.settled_mask (s : State) (t : Transaction) (a : Answer) : (s.settled t a).mask = s.mask := by
  rw [← State.sameInside_settled s t a]
@[simp] theorem State.settled_bitcnt (s : State) (t : Transaction) (a : Answer) : (s.settled t a).bitcnt = s.bitcnt := by
  rw [← State.sameInside_settled s t a]
@[simp] theorem State.settled_acq (s : State) (t : Transaction) (a : Answer) : (s.settled t a).acq = s.acq := by
  rw [← State.sameInside_settled s t a]
@[simp] theorem State.settled_seq (s : State) (t : Transaction) (a : Answer) : (s.settled t a).seq = s.seq := by
  rw [← State.sameInside_settled s t a]
@[simp] theorem State.settled_trace (s : State) (t : Transaction) (a : Answer) : (s.settled t a).trace = s.trace := by
  rw [← State.sameInside_settled s t a]
@[simp] theorem State.settled_inbox (s : State) (t : Transaction) (a : Answer) : (s.settled t a).inbox = s.inbox := by
  rw [← State.sameInside_settled s t a]
@[simp] theorem State.settled_answers (s : State) (t : Transaction) (a : Answer) : (s.settled t a).answers = s.answers := by
  rw [← State.sameInside_settled s t a]
@[simp] theorem State.settled_cut (s : State) (t : Transaction) (a : Answer) : (s.settled t a).cut = s.cut := by
  rw [← State.sameInside_settled s t a]

/-! Granted and denied transactions: the trace and `SEQ` advance, one answer is used up. -/

@[simp] theorem State.granted_st (s : State) (t : Transaction) : (s.granted t).st = s.st := by
  simp [State.granted]
@[simp] theorem State.granted_pin (s : State) (t : Transaction) : (s.granted t).pin = s.pin := by
  simp [State.granted]
@[simp] theorem State.granted_ns (s : State) (t : Transaction) : (s.granted t).ns = s.ns := by
  simp [State.granted]
@[simp] theorem State.granted_cap (s : State) (t : Transaction) : (s.granted t).cap = s.cap := by
  simp [State.granted]
@[simp] theorem State.granted_dsr (s : State) (t : Transaction) : (s.granted t).dsr = s.dsr := by
  simp [State.granted]
@[simp] theorem State.granted_mask (s : State) (t : Transaction) : (s.granted t).mask = s.mask := by
  simp [State.granted]
@[simp] theorem State.granted_bitcnt (s : State) (t : Transaction) : (s.granted t).bitcnt = s.bitcnt := by
  simp [State.granted]
@[simp] theorem State.granted_acq (s : State) (t : Transaction) : (s.granted t).acq = s.acq := by
  simp [State.granted]
@[simp] theorem State.granted_seq (s : State) (t : Transaction) : (s.granted t).seq = s.seq + 1 := by
  simp [State.granted]
@[simp] theorem State.granted_trace (s : State) (t : Transaction) : (s.granted t).trace = s.trace ++ [.port t .ok] := by
  simp [State.granted]
@[simp] theorem State.granted_inbox (s : State) (t : Transaction) : (s.granted t).inbox = s.inbox := by
  simp [State.granted]
@[simp] theorem State.granted_answers (s : State) (t : Transaction) : (s.granted t).answers = s.answers.tail := by
  simp [State.granted]
@[simp] theorem State.granted_cut (s : State) (t : Transaction) : (s.granted t).cut = s.cut := by
  simp [State.granted]

@[simp] theorem State.denied_st (s : State) (t : Transaction) (es : List Role) : (s.denied t es).st = s.st := by
  simp [State.denied]
@[simp] theorem State.denied_pin (s : State) (t : Transaction) (es : List Role) : (s.denied t es).pin = s.pin := by
  simp [State.denied]
@[simp] theorem State.denied_ns (s : State) (t : Transaction) (es : List Role) : (s.denied t es).ns = s.ns := by
  simp [State.denied]
@[simp] theorem State.denied_cap (s : State) (t : Transaction) (es : List Role) : (s.denied t es).cap = s.cap := by
  simp [State.denied]
@[simp] theorem State.denied_dsr (s : State) (t : Transaction) (es : List Role) : (s.denied t es).dsr = s.dsr := by
  simp [State.denied]
@[simp] theorem State.denied_mask (s : State) (t : Transaction) (es : List Role) : (s.denied t es).mask = s.mask := by
  simp [State.denied]
@[simp] theorem State.denied_bitcnt (s : State) (t : Transaction) (es : List Role) : (s.denied t es).bitcnt = s.bitcnt := by
  simp [State.denied]
@[simp] theorem State.denied_acq (s : State) (t : Transaction) (es : List Role) : (s.denied t es).acq = s.acq := by
  simp [State.denied]
@[simp] theorem State.denied_seq (s : State) (t : Transaction) (es : List Role) : (s.denied t es).seq = s.seq + 1 := by
  simp [State.denied]
@[simp] theorem State.denied_trace (s : State) (t : Transaction) (es : List Role) : (s.denied t es).trace = s.trace ++ [.port t .err] := by
  simp [State.denied]
@[simp] theorem State.denied_inbox (s : State) (t : Transaction) (es : List Role) : (s.denied t es).inbox = s.inbox := by
  simp [State.denied]
@[simp] theorem State.denied_answers (s : State) (t : Transaction) (es : List Role) : (s.denied t es).answers = s.answers.tail := by
  simp [State.denied]
@[simp] theorem State.denied_cut (s : State) (t : Transaction) (es : List Role) : (s.denied t es).cut = s.cut := by
  simp [State.denied]


end Sys2Proof.Machine
end

