-- ==== Sys2Proof/Laws/Ops.lean ====
section
/-! SUPPORT. One lemma per shared operation that says all it can do: issuing a transaction, emitting an event,
performing an event list, ending a command. The provers cite these instead of unfolding the operations. -/

namespace Sys2Proof.Machine

/-! ### Progress -/

@[simp] theorem Progress.ok_andThen (s : State) (f : State → Progress) : (Progress.ok s).andThen f = f s := rfl
@[simp] theorem Progress.failed_andThen (s : State) (f : State → Progress) : (Progress.failed s).andThen f = .failed s := rfl
@[simp] theorem Progress.abandoned_andThen (s : State) (f : State → Progress) :
    (Progress.abandoned s).andThen f = .abandoned s := rfl
@[simp] theorem Progress.hung_andThen (f : State → Progress) : Progress.hung.andThen f = .hung := rfl

theorem Progress.andThen_assoc (p : Progress) (f g : State → Progress) :
    (p.andThen f).andThen g = p.andThen (fun s => (f s).andThen g) := by
  cases p <;> rfl

/-- What holds of every state a command may stop in. -/
def Progress.Holds (P : State → Prop) : Progress → Prop
  | .ok s => P s
  | .failed s => P s
  | .abandoned s => P s
  | .hung => True

theorem Progress.Holds.mono {P Q : State → Prop} (h : ∀ s, P s → Q s) {p : Progress} (hp : p.Holds P) : p.Holds Q := by
  cases p with
  | ok s => exact h s hp
  | failed s => exact h s hp
  | abandoned s => exact h s hp
  | hung => trivial

theorem Progress.Holds.andThen {P : State → Prop} {p : Progress} (hp : p.Holds P) {f : State → Progress}
    (hf : ∀ s, P s → (f s).Holds P) : (p.andThen f).Holds P := by
  cases p with
  | ok s => exact hf s hp
  | failed s => exact hp
  | abandoned s => exact hp
  | hung => trivial

theorem Progress.Holds.orIgnore {P : State → Prop} {p : Progress} (hp : p.Holds P) : p.orIgnore.Holds P := by
  cases p <;> exact hp

/-- How a command ends: with its response, with `PinFault`, cut by the reset, or without an answer. -/
theorem Progress.conclude_next {p : Progress} {r : Response} {t : State} (h : p.conclude r = .next t) :
    (∃ s, p = .ok s ∧ t = s.respond r) ∨ (∃ s, p = .failed s ∧ t = s.respond .pinFault) ∨ p = .abandoned t := by
  cases p with
  | ok s => cases h; exact .inl ⟨s, rfl, rfl⟩
  | failed s => cases h; exact .inr (.inl ⟨s, rfl, rfl⟩)
  | abandoned s => cases h; exact .inr (.inr rfl)
  | hung => cases h

theorem Progress.conclude_fault {p : Progress} {r : Response} {f : Fault} (h : p.conclude r = .fault f) :
    p = .hung ∧ f = .noAnswer := by
  cases p <;> cases h
  exact ⟨rfl, rfl⟩

/-- What a response keeps and every state of the command has, the final state has. -/
theorem Progress.Holds.conclude {P : State → Prop} (hP : ∀ s r, P s → P (s.respond r)) {p : Progress}
    (hp : p.Holds P) {r : Response} {t : State} (h : p.conclude r = .next t) : P t := by
  rcases Progress.conclude_next h with ⟨s, rfl, rfl⟩ | ⟨s, rfl, rfl⟩ | rfl
  · exact hP s r hp
  · exact hP s .pinFault hp
  · exact hp

/-! ### Issuing -/

/-- Everything issuing a transaction can do. -/
theorem State.issue_cases (s : State) (t : Transaction) :
    (s.cut = some s.seq ∧ s.issue t = .abandoned s) ∨
    (s.nextAnswer = .ok ∧ s.issue t = .ok (s.granted t)) ∨
    (∃ es, s.nextAnswer = .err es ∧ s.issue t = .failed (s.denied t es)) ∨
    (s.nextAnswer = .silent ∧ s.cut = none ∧ s.issue t = .hung) ∨
    (s.nextAnswer = .silent ∧ s.cut ≠ none ∧ s.issue t = .abandoned s.dropAnswer) := by
  by_cases hc : s.cut = some s.seq
  · exact .inl ⟨hc, by simp [State.issue, hc]⟩
  · cases ha : s.nextAnswer with
    | ok => exact .inr (.inl ⟨rfl, by simp [State.issue, hc, ha]⟩)
    | err es => exact .inr (.inr (.inl ⟨es, rfl, by simp [State.issue, hc, ha]⟩))
    | silent =>
      by_cases hn : s.cut = none
      · exact .inr (.inr (.inr (.inl ⟨rfl, hn, by simp [State.issue, ha, hn]⟩)))
      · exact .inr (.inr (.inr (.inr ⟨rfl, hn, by simp [State.issue, hc, ha, hn]⟩)))

/-- Issuing keeps what granted, denied and unanswered transactions keep. -/
theorem State.issue_holds {P : State → Prop} {s : State} {t : Transaction} (hs : P s) (hg : P (s.granted t))
    (hd : ∀ es, P (s.denied t es)) (hu : P s.dropAnswer) : (s.issue t).Holds P := by
  rcases s.issue_cases t with ⟨_, h⟩ | ⟨_, h⟩ | ⟨es, _, h⟩ | ⟨_, _, h⟩ | ⟨_, _, h⟩ <;> rw [h]
  · exact hs
  · exact hg
  · exact hd es
  · trivial
  · exact hu

theorem State.emit_cases (s : State) (e : Event) :
    (s.cut = some s.seq ∧ s.emit e = .abandoned s) ∨ (s.cut ≠ some s.seq ∧ s.emit e = .ok (s.record e)) := by
  by_cases hc : s.cut = some s.seq
  · exact .inl ⟨hc, by simp [State.emit, hc]⟩
  · exact .inr ⟨hc, by simp [State.emit, hc]⟩

theorem State.emit_holds {P : State → Prop} {s : State} {e : Event} (hs : P s) (hr : P (s.record e)) :
    (s.emit e).Holds P := by
  rcases s.emit_cases e with ⟨_, h⟩ | ⟨_, h⟩ <;> rw [h] <;> assumption

theorem State.emit_of_cut_none {s : State} (h : s.cut = none) (e : Event) : s.emit e = .ok (s.record e) := by
  simp [State.emit, h]

/-! ### What a command keeps

A property of states is kept by a command if it is kept by each thing the command may do; `Keeps` lists these for the
transactions that satisfy `T`. -/

/-- `P` is kept by every event, for the transactions `T`. -/
structure Keeps (P : State → Prop) (T : Transaction → Prop) : Prop where
  granted : ∀ s t, T t → P s → P (s.granted t)
  denied : ∀ s t es, T t → P s → P (s.denied t es)
  dropped : ∀ s, P s → P s.dropAnswer
  waited : ∀ s, P s → P (s.record .wait)
  logged : ∀ s k, P s → P (s.record (.log k))

theorem Keeps.issue {P : State → Prop} {T : Transaction → Prop} (h : Keeps P T) {s : State} {t : Transaction} (ht : T t)
    (hs : P s) : (s.issue t).Holds P :=
  State.issue_holds hs (h.granted s t ht hs) (fun es => h.denied s t es ht hs) (h.dropped s hs)

theorem Keeps.perform {P : State → Prop} {T : Transaction → Prop} (h : Keeps P T) (as : List Act)
    (hT : ∀ t, .port t ∈ as → T t) {s : State} (hs : P s) : (s.perform as).Holds P := by
  induction as generalizing s with
  | nil => exact hs
  | cons a as ih =>
    have step : (s.act a).Holds P := by
      cases a with
      | port t => exact h.issue (hT t (by simp)) hs
      | wait => exact State.emit_holds hs (h.waited s hs)
    exact step.andThen (fun t ht => ih (fun t ht => hT t (by simp [ht])) ht)

theorem Keeps.orWarn {P : State → Prop} {T : Transaction → Prop} (h : Keeps P T) {p : Progress} (hp : p.Holds P) :
    p.orWarn.Holds P := by
  cases p with
  | ok s => exact hp
  | failed s => exact State.emit_holds hp (h.logged s _ hp)
  | abandoned s => exact hp
  | hung => trivial

theorem Keeps.releaseWarning {P : State → Prop} {T : Transaction → Prop} (h : Keeps P T) (ps : List Nat)
    (hT : ∀ p ∈ ps, T (.rel p)) {s : State} (hs : P s) : (s.releaseWarning ps).Holds P := by
  induction ps generalizing s with
  | nil => exact hs
  | cons p ps ih =>
    exact (h.orWarn (h.issue (hT p (by simp)) hs)).andThen (fun t ht => ih (fun q hq => hT q (by simp [hq])) ht)

theorem Keeps.releaseIgnoring {P : State → Prop} {T : Transaction → Prop} (h : Keeps P T) (ps : List Nat)
    (hT : ∀ p ∈ ps, T (.rel p)) {s : State} (hs : P s) : (s.releaseIgnoring ps).Holds P := by
  induction ps generalizing s with
  | nil => exact hs
  | cons p ps ih =>
    exact (h.issue (hT p (by simp)) hs).orIgnore.andThen (fun t ht => ih (fun q hq => hT q (by simp [hq])) ht)

/-! ### Event lists whose transactions all answer `ok` -/

theorem State.accepts.cut {s : State} {n : Nat} (h : s.accepts n) : s.cut = none := h.1

theorem State.accepts.mono {s : State} {m n : Nat} (h : s.accepts n) (hm : m ≤ n) : s.accepts m :=
  ⟨h.1, fun a ha => h.2 a (List.take_subset_take_left _ hm ha)⟩

theorem State.accepts.next {s : State} {n : Nat} (h : s.accepts (n + 1)) : s.nextAnswer = .ok := by
  cases ha : s.answers with
  | nil => simp [State.nextAnswer, ha]
  | cons a as => simpa [State.nextAnswer, ha] using h.2 a (by simp [ha])

/-- The premise passes on to any state that has the same `cut` and one answer less. -/
theorem State.accepts.tail {s u : State} {n : Nat} (h : s.accepts (n + 1)) (hc : u.cut = s.cut)
    (ha : u.answers = s.answers.tail) : u.accepts n := by
  refine ⟨hc.trans h.1, fun a hm => h.2 a ?_⟩
  rw [ha] at hm
  cases hs : s.answers with
  | nil => simp [hs] at hm
  | cons b bs => rw [hs] at hm; simpa using Or.inr hm

theorem State.issue_ok {s : State} {n : Nat} (h : s.accepts (n + 1)) (t : Transaction) :
    s.issue t = .ok (s.granted t) ∧ (s.granted t).accepts n := by
  refine ⟨?_, h.tail (by simp) (by simp)⟩
  simp [State.issue, h.1, h.next]

/-- How many transactions an event list has. -/
def portCount : List Act → Nat
  | [] => 0
  | .port _ :: as => portCount as + 1
  | .wait :: as => portCount as

/-- The trace items of an event list whose transactions all answer `ok`. -/
def okEvents : List Act → List Event
  | [] => []
  | .port t :: as => .port t .ok :: okEvents as
  | .wait :: as => .wait :: okEvents as

/-- The state after an event list whose transactions all answer `ok`. -/
def State.performed : List Act → State → State
  | [], s => s
  | .port t :: as, s => State.performed as (s.granted t)
  | .wait :: as, s => State.performed as (s.record .wait)

/-- An event list whose transactions all answer `ok` runs to its end. -/
theorem State.perform_ok (as : List Act) {s : State} {n : Nat} (h : s.accepts (n + portCount as)) :
    s.perform as = .ok (s.performed as) ∧ (s.performed as).accepts n := by
  induction as generalizing s with
  | nil => exact ⟨rfl, h⟩
  | cons a as ih =>
    cases a with
    | port t =>
      obtain ⟨h1, h2⟩ := State.issue_ok (n := n + portCount as) (s := s) h t
      simpa [State.perform, State.act, h1, State.performed] using ih h2
    | wait =>
      have h2 : (s.record .wait).accepts (n + portCount as) := h
      simpa [State.perform, State.act, State.emit_of_cut_none h.1, State.performed] using ih h2

theorem State.performed_trace (as : List Act) (s : State) : (s.performed as).trace = s.trace ++ okEvents as := by
  induction as generalizing s with
  | nil => simp [State.performed, okEvents]
  | cons a as ih => cases a <;> simp [State.performed, okEvents, ih]

theorem State.performed_seq (as : List Act) (s : State) : (s.performed as).seq = s.seq + as.length := by
  induction as generalizing s with
  | nil => simp [State.performed]
  | cons a as ih => cases a <;> simp [State.performed, ih] <;> omega

theorem State.performed_answers (as : List Act) (s : State) :
    (s.performed as).answers = s.answers.drop (portCount as) := by
  induction as generalizing s with
  | nil => simp [State.performed, portCount]
  | cons a as ih => cases a <;> simp [State.performed, portCount, ih, Nat.add_comm]

/-- The registers an event list leaves alone. -/
theorem State.performed_registers (as : List Act) (s : State) :
    (s.performed as).st = s.st ∧ (s.performed as).pin = s.pin ∧ (s.performed as).ns = s.ns ∧
    (s.performed as).cap = s.cap ∧ (s.performed as).dsr = s.dsr ∧ (s.performed as).mask = s.mask ∧
    (s.performed as).bitcnt = s.bitcnt ∧ (s.performed as).acq = s.acq ∧ (s.performed as).inbox = s.inbox ∧
    (s.performed as).cut = s.cut := by
  induction as generalizing s with
  | nil => simp [State.performed]
  | cons a as ih => cases a <;> simp [State.performed, ih]

@[simp] theorem okEvents_clearActs (p : Nat) : okEvents (clearActs p) = clearEvents p := rfl
@[simp] theorem okEvents_pulseActs (p : Nat) : okEvents (pulseActs p) = pulseEvents p := rfl

end Sys2Proof.Machine
end

