-- ==== Sys2Proof/Laws/Alike.lean ====
section
/-! SUPPORT. Two runs side by side: what a transaction does to the pins and the load depends on the pins, the load, the
PinSet, `CAP` and the number of trace items alone; and a relation that every event respects is respected by every operation. -/

namespace Sys2Proof.Machine

/-! ### Two states that agree on what a transaction reads -/

/-- `s` and `t` agree on everything a transaction reads or changes: the pins, the load, the PinSet, `CAP` and
how many trace items there are. -/
structure State.SameOutside (s t : State) : Prop where
  pin : s.pin = t.pin
  cap : s.cap = t.cap
  space : s.space = t.space
  shift : s.shift = t.shift
  out : s.out = t.out
  count : s.trace.length = t.trace.length

theorem State.SameOutside.level {s t : State} (h : s.SameOutside t) (p : Nat) : s.level p = t.level p := by
  rw [State.level, State.level, h.space]

theorem State.SameOutside.owned {s t : State} (h : s.SameOutside t) (p : Nat) : s.owned p = t.owned p := by
  rw [State.owned, State.owned, h.space]

theorem State.SameOutside.setLevel {s t : State} (h : s.SameOutside t) (p : Nat) (l : Option Level) :
    (s.setLevel p l).SameOutside (t.setLevel p l) :=
  ⟨h.pin, h.cap, by simp only [State.setLevel, h.space, h.owned p], h.shift, h.out, h.count⟩

theorem State.SameOutside.setOwned {s t : State} (h : s.SameOutside t) (p : Nat) (o : Option Bool) :
    (s.setOwned p o).SameOutside (t.setOwned p o) :=
  ⟨h.pin, h.cap, by simp only [State.setOwned, h.space, h.level p], h.shift, h.out, h.count⟩

theorem State.SameOutside.comeUp {s t : State} (h : s.SameOutside t) (p : Nat) : (s.comeUp p).SameOutside (t.comeUp p) :=
  have l := h.setLevel p none
  ⟨l.pin, l.cap, l.space, by simp only [State.comeUp_shift, State.freshShift, h.pin, h.count, h.shift], l.out, l.count⟩

theorem State.SameOutside.strobe {s t : State} (h : s.SameOutside t) (r : Role) :
    (s.strobe r).SameOutside (t.strobe r) := by
  obtain ⟨h1, h2, h3, h4, h5, h6⟩ := h
  cases r <;> constructor <;> simp [State.strobe, State.shiftedIn, State.level, *]

theorem State.SameOutside.loadDriven {s t : State} (h : s.SameOutside t) (r : Role) (b : Option Level) (l : Level) :
    (s.loadDriven r b l).SameOutside (t.loadDriven r b l) := by
  have hb : ∀ q, (s.blurredStrobe q).SameOutside (t.blurredStrobe q) := by
    obtain ⟨h1, h2, h3, h4, h5, h6⟩ := h
    intro q; cases q <;> constructor <;> simp [State.blurredStrobe, *]
  cases r <;> cases l <;> rcases b with _ | ⟨_ | _⟩ <;> first | exact h | exact h.strobe .clear | exact h.strobe .shiftClock | exact h.strobe .latchClock | exact hb .shiftClock | exact hb .latchClock

theorem State.SameOutside.drive {s t : State} (h : s.SameOutside t) (p : Nat) (l : Level) :
    (s.drive p l).SameOutside (t.drive p l) := by
  have hd := h.setLevel p (some l)
  simp only [State.drive, h.pin, h.level p]
  split
  · split
    · exact hd.loadDriven _ _ _
    · exact hd
  · exact ⟨hd.pin, hd.cap, hd.space, rfl, rfl, hd.count⟩

theorem State.SameOutside.foldl {α : Type} {f : State → α → State}
    (hf : ∀ {s t : State} (a : α), s.SameOutside t → (f s a).SameOutside (f t a)) (as : List α) {s t : State}
    (h : s.SameOutside t) : (as.foldl f s).SameOutside (as.foldl f t) := by
  induction as generalizing s t with
  | nil => exact h
  | cons a as ih => exact ih (hf a h)

theorem State.SameOutside.driveFailed {s t : State} (h : s.SameOutside t) (ps : List Nat) (es : List Role) :
    (s.driveFailed ps es).SameOutside (t.driveFailed ps es) := by
  have hd := State.SameOutside.foldl (f := fun t p => State.setLevel t p none) (fun p h => h.setLevel p none) ps h
  simp only [State.driveFailed, h.pin]
  split
  · exact State.SameOutside.foldl (fun r h => h.strobe r) _ hd
  · exact ⟨hd.pin, hd.cap, hd.space, rfl, rfl, hd.count⟩

/-- What a transaction does to the pins and the load depends on nothing else. -/
theorem State.SameOutside.settled {s t : State} (h : s.SameOutside t) (x : Transaction) (a : Answer) :
    (s.settled x a).SameOutside (t.settled x a) := by
  cases x <;> cases a
  · exact (h.setOwned _ _).comeUp _
  · exact h
  · exact h
  · exact h.drive _ _
  · exact h.driveFailed _ _
  · exact h
  · exact State.SameOutside.foldl (fun p h => h.drive p _) _ h
  · exact h.driveFailed _ _
  · exact h
  · exact h.setOwned _ _
  · exact h.setOwned _ _
  · exact h

/-! ### Two runs alike up to a relation -/

/-- Two runs of a command stopped alike, in related states. -/
def Progress.Alike (R : State → State → Prop) (p q : Progress) : Prop :=
  match p, q with
  | .ok s, .ok t => R s t
  | .failed s, .failed t => R s t
  | .abandoned s, .abandoned t => R s t
  | .hung, .hung => True
  | _, _ => False

/-- `R` is respected by every event: related states take it alike and stay related. -/
structure Respected (R : State → State → Prop) : Prop where
  pin : ∀ {s t}, R s t → s.pin = t.pin
  seq : ∀ {s t}, R s t → s.seq = t.seq
  answers : ∀ {s t}, R s t → s.answers = t.answers
  cut : ∀ {s t}, R s t → s.cut = t.cut
  granted : ∀ {s t} x, R s t → R (s.granted x) (t.granted x)
  denied : ∀ {s t} x es, R s t → R (s.denied x es) (t.denied x es)
  dropped : ∀ {s t}, R s t → R s.dropAnswer t.dropAnswer
  recorded : ∀ {s t} e, R s t → R (s.record e) (t.record e)
  responded : ∀ {s t} r, R s t → R (s.respond r) (t.respond r)

variable {R : State → State → Prop}

theorem Progress.Alike.andThen {p q : Progress} (h : p.Alike R q) {f g : State → Progress}
    (hf : ∀ {s t}, R s t → (f s).Alike R (g t)) : (p.andThen f).Alike R (q.andThen g) := by
  cases p <;> cases q <;> first | exact h.elim | exact hf h | exact h

theorem Progress.Alike.orIgnore {p q : Progress} (h : p.Alike R q) : p.orIgnore.Alike R q.orIgnore := by
  cases p <;> cases q <;> first | exact h.elim | exact h

theorem Respected.issue (k : Respected R) {s t : State} (h : R s t) (x : Transaction) : (s.issue x).Alike R (t.issue x) := by
  have ha : s.nextAnswer = t.nextAnswer := by rw [State.nextAnswer, State.nextAnswer, k.answers h]
  simp only [State.issue, k.cut h, k.seq h, ha]
  split
  · exact h
  · split
    · exact k.granted x h
    · exact k.denied x _ h
    · split
      · trivial
      · exact k.dropped h

theorem Respected.emit (k : Respected R) {s t : State} (h : R s t) (e : Event) : (s.emit e).Alike R (t.emit e) := by
  simp only [State.emit, k.cut h, k.seq h]
  split
  · exact h
  · exact k.recorded e h

theorem Respected.perform (k : Respected R) (as : List Act) {s t : State} (h : R s t) :
    (s.perform as).Alike R (t.perform as) := by
  induction as generalizing s t with
  | nil => exact h
  | cons a as ih =>
    refine Progress.Alike.andThen (R := R) ?_ ih
    cases a with
    | port x => exact k.issue h x
    | wait => exact k.emit h .wait

theorem Respected.orWarn (k : Respected R) {p q : Progress} (h : p.Alike R q) : p.orWarn.Alike R q.orWarn := by
  cases p <;> cases q <;> first | exact h.elim | exact k.emit h _ | exact h

theorem Respected.releaseWarning (k : Respected R) (ps : List Nat) {s t : State} (h : R s t) :
    (s.releaseWarning ps).Alike R (t.releaseWarning ps) := by
  induction ps generalizing s t with
  | nil => exact h
  | cons p ps ih => exact (k.orWarn (k.issue h _)).andThen ih

theorem Respected.releaseIgnoring (k : Respected R) (ps : List Nat) {s t : State} (h : R s t) :
    (s.releaseIgnoring ps).Alike R (t.releaseIgnoring ps) := by
  induction ps generalizing s t with
  | nil => exact h
  | cons p ps ih => exact (k.issue h _).orIgnore.andThen ih

theorem Respected.clearSeq (k : Respected R) {s t : State} (h : R s t) : s.clearSeq.Alike R t.clearSeq := by
  rw [State.clearSeq, State.clearSeq, k.pin h]; exact k.perform _ h

theorem Respected.pulse (k : Respected R) (r : Role) {s t : State} (h : R s t) :
    (State.pulse r s).Alike R (State.pulse r t) := by
  rw [State.pulse, State.pulse, k.pin h]; exact k.perform _ h

theorem Respected.conclude (k : Respected R) {p q : Progress} (h : p.Alike R q) (r : Response) :
    StepResult.Alike R (p.conclude r) (q.conclude r) := by
  cases p <;> cases q <;> first | exact h.elim | exact k.responded _ h | exact h | exact (rfl : Fault.noAnswer = .noAnswer)

end Sys2Proof.Machine
end

