-- ==== Sys2Proof/Laws/Load.lean ====
section
/-! SUPPORT. What driving pins does: to levels and ownership whatever the pins, and to the load on four distinct pins. -/

namespace Sys2Proof.Machine

/-! ### Four distinct pins -/

theorem PinSet.distinct_iff (ps : PinSet) : ps.distinct = true ↔
    ps.serialIn ≠ ps.shiftClock ∧ ps.serialIn ≠ ps.latchClock ∧ ps.serialIn ≠ ps.clear ∧
    ps.shiftClock ≠ ps.latchClock ∧ ps.shiftClock ≠ ps.clear ∧ ps.latchClock ≠ ps.clear := by
  simp [PinSet.distinct, PinSet.toList, not_or, and_assoc]

theorem PinSet.at_mem (ps : PinSet) (r : Role) : ps.at r ∈ ps.toList := by
  cases r <;> simp [PinSet.at, PinSet.toList]

theorem PinSet.mem_toList {ps : PinSet} {p : Nat} (h : p ∈ ps.toList) : ∃ r, p = ps.at r := by
  simp only [PinSet.toList, List.mem_cons, List.not_mem_nil, or_false] at h
  rcases h with h | h | h | h
  · exact ⟨.serialIn, h⟩
  · exact ⟨.shiftClock, h⟩
  · exact ⟨.latchClock, h⟩
  · exact ⟨.clear, h⟩

theorem PinSet.at_injective {ps : PinSet} (h : ps.distinct = true) {r q : Role} (e : ps.at r = ps.at q) : r = q := by
  rw [PinSet.distinct_iff] at h
  obtain ⟨h1, h2, h3, h4, h5, h6⟩ := h
  cases r <;> cases q <;> simp only [PinSet.at] at e <;> first | rfl | (exfalso; omega)

theorem PinSet.roleOf_at {ps : PinSet} (h : ps.distinct = true) (r : Role) : ps.roleOf (ps.at r) = some r := by
  rw [PinSet.distinct_iff] at h
  obtain ⟨h1, h2, h3, h4, h5, h6⟩ := h
  cases r <;> simp [PinSet.roleOf, PinSet.at, List.find?, *]

/-! ### Levels and ownership -/

theorem State.strobe_space (s : State) (r : Role) : (s.strobe r).space = s.space := by cases r <;> rfl

theorem State.strobes_space (rs : List Role) (s : State) : (rs.foldl State.strobe s).space = s.space := by
  induction rs generalizing s with
  | nil => rfl
  | cons r rs ih => rw [List.foldl_cons, ih, State.strobe_space]

theorem State.loadDriven_space (s : State) (r : Role) (b : Option Level) (l : Level) :
    (s.loadDriven r b l).space = s.space := by
  cases r <;> cases l <;> rcases b with _ | ⟨_ | _⟩ <;> rfl

theorem State.drive_space (s : State) (p : Nat) (l : Level) :
    (s.drive p l).space = (s.setLevel p (some l)).space := by
  unfold State.drive
  split
  · split
    · exact State.loadDriven_space _ _ _ _
    · rfl
  · rfl

theorem State.driveFailed_space (s : State) (ps : List Nat) (es : List Role) :
    (s.driveFailed ps es).space = (ps.foldl (fun t p => t.setLevel p none) s).space := by
  unfold State.driveFailed
  split
  · exact State.strobes_space _ _
  · rfl

/-- Driving a pin sets its level and no other's. -/
@[simp] theorem State.drive_level (s : State) (p : Nat) (l : Level) (q : Nat) :
    (s.drive p l).level q = if q = p then some l else s.level q := by
  rw [State.level, State.drive_space]; exact s.level_setLevel p _ q

@[simp] theorem State.drive_owned (s : State) (p : Nat) (l : Level) (q : Nat) : (s.drive p l).owned q = s.owned q := by
  rw [State.owned, State.drive_space]; exact s.owned_setLevel p _ q

theorem State.setLevels_level (ps : List Nat) (s : State) (q : Nat) :
    (ps.foldl (fun t p => State.setLevel t p none) s).level q = if q ∈ ps then none else s.level q := by
  induction ps generalizing s with
  | nil => simp
  | cons p ps ih =>
    rw [List.foldl_cons, ih, State.level_setLevel]
    by_cases h1 : q ∈ ps <;> by_cases h2 : q = p <;> simp [h1, h2]

theorem State.setLevels_owned (ps : List Nat) (s : State) (q : Nat) :
    (ps.foldl (fun t p => State.setLevel t p none) s).owned q = s.owned q := by
  induction ps generalizing s with
  | nil => rfl
  | cons p ps ih => rw [List.foldl_cons, ih, State.owned_setLevel]

/-- A failing write leaves its pins without a level and no other pin's changed. -/
@[simp] theorem State.driveFailed_level (s : State) (ps : List Nat) (es : List Role) (q : Nat) :
    (s.driveFailed ps es).level q = if q ∈ ps then none else s.level q := by
  rw [State.level, State.driveFailed_space]; exact State.setLevels_level ps s q

@[simp] theorem State.driveFailed_owned (s : State) (ps : List Nat) (es : List Role) (q : Nat) :
    (s.driveFailed ps es).owned q = s.owned q := by
  rw [State.owned, State.driveFailed_space]; exact State.setLevels_owned ps s q

theorem State.drives_level (ps : List Nat) (l : Level) (s : State) (q : Nat) :
    (ps.foldl (fun t p => State.drive t p l) s).level q = if q ∈ ps then some l else s.level q := by
  induction ps generalizing s with
  | nil => simp
  | cons p ps ih =>
    rw [List.foldl_cons, ih, State.drive_level]
    by_cases h1 : q ∈ ps <;> by_cases h2 : q = p <;> simp [h1, h2]

theorem State.drives_owned (ps : List Nat) (l : Level) (s : State) (q : Nat) :
    (ps.foldl (fun t p => State.drive t p l) s).owned q = s.owned q := by
  induction ps generalizing s with
  | nil => rfl
  | cons p ps ih => rw [List.foldl_cons, ih, State.drive_owned]

/-- The pins a transaction addresses. -/
def Transaction.pins : Transaction → List Nat
  | .cfg p => [p]
  | .set p _ => [p]
  | .setM ps _ => ps
  | .rel p => [p]

/-- A transaction touches no pin it does not address. -/
theorem State.settled_other (s : State) (t : Transaction) (a : Answer) (q : Nat) (h : q ∉ t.pins) :
    (s.settled t a).owned q = s.owned q ∧ (s.settled t a).level q = s.level q := by
  cases t <;> cases a <;> simp_all [State.settled, Transaction.pins, State.drives_level, State.drives_owned]

theorem State.granted_owned (s : State) (t : Transaction) (q : Nat) :
    (s.granted t).owned q = (s.settled t .ok).owned q := rfl
theorem State.granted_level (s : State) (t : Transaction) (q : Nat) :
    (s.granted t).level q = (s.settled t .ok).level q := rfl
theorem State.granted_shift (s : State) (t : Transaction) : (s.granted t).shift = (s.settled t .ok).shift := rfl
theorem State.granted_out (s : State) (t : Transaction) : (s.granted t).out = (s.settled t .ok).out := rfl
theorem State.denied_owned (s : State) (t : Transaction) (es : List Role) (q : Nat) :
    (s.denied t es).owned q = (s.settled t (.err es)).owned q := rfl
theorem State.denied_level (s : State) (t : Transaction) (es : List Role) (q : Nat) :
    (s.denied t es).level q = (s.settled t (.err es)).level q := rfl
theorem State.denied_shift (s : State) (t : Transaction) (es : List Role) :
    (s.denied t es).shift = (s.settled t (.err es)).shift := rfl
theorem State.denied_out (s : State) (t : Transaction) (es : List Role) :
    (s.denied t es).out = (s.settled t (.err es)).out := rfl

/-! ### The canonical form -/

theorem State.wf_drive {s : State} (h : s.space.wf) (p : Nat) (l : Level) : (s.drive p l).space.wf := by
  rw [State.drive_space]; exact State.wf_setLevel h p _

theorem State.wf_comeUp {s : State} (h : s.space.wf) (p : Nat) : (s.comeUp p).space.wf := State.wf_setLevel h p none

theorem State.wf_setLevels (ps : List Nat) {s : State} (h : s.space.wf) :
    (ps.foldl (fun t p => State.setLevel t p none) s).space.wf := by
  induction ps generalizing s with
  | nil => exact h
  | cons p ps ih => exact ih (State.wf_setLevel h p none)

theorem State.wf_drives (ps : List Nat) (l : Level) {s : State} (h : s.space.wf) :
    (ps.foldl (fun t p => State.drive t p l) s).space.wf := by
  induction ps generalizing s with
  | nil => exact h
  | cons p ps ih => exact ih (State.wf_drive h p l)

/-- Every transaction keeps the pin space canonical, however it is answered. -/
theorem State.wf_settled {s : State} (h : s.space.wf) (t : Transaction) (a : Answer) : (s.settled t a).space.wf := by
  have failed : ∀ ps es, (s.driveFailed ps es).space.wf := fun ps es => by
    rw [State.driveFailed_space]; exact State.wf_setLevels ps h
  cases t with
  | cfg p => cases a <;> first | exact h | exact State.wf_comeUp (State.wf_setOwned h p _) p
  | set p l => cases a <;> first | exact h | exact State.wf_drive h p l | exact failed _ _
  | setM ps l => cases a <;> first | exact h | exact State.wf_drives ps l h | exact failed _ _
  | rel p => cases a <;> first | exact h | exact State.wf_setOwned h p _

/-- Every event keeps the pin space canonical. -/
theorem Keeps.wf : Keeps (fun s => s.space.wf) (fun _ => True) where
  granted _ t _ h := State.wf_settled h t .ok
  denied _ t es _ h := State.wf_settled h t (.err es)
  dropped _ h := h
  waited _ h := h
  logged _ _ h := h

/-! ### The load on four distinct pins -/

/-- On four distinct pins driving the pin of a role acts on the load as that role. -/
theorem State.drive_at {s : State} (h : s.pin.distinct = true) (r : Role) (l : Level) :
    s.drive (s.pin.at r) l = (s.setLevel (s.pin.at r) (some l)).loadDriven r (s.level (s.pin.at r)) l := by
  simp [State.drive, h, PinSet.roleOf_at h]

/-- `clear` driven `LOW` zeroes the shift storage and leaves the outputs. -/
theorem State.drive_clear_low {s : State} (h : s.pin.distinct = true) :
    (s.drive s.pin.clear .low).shift = some 0 ∧ (s.drive s.pin.clear .low).out = s.out := by
  have := State.drive_at h .clear .low
  simp only [PinSet.at] at this
  rw [this]; exact ⟨rfl, rfl⟩

theorem State.drive_clear_high {s : State} (h : s.pin.distinct = true) :
    (s.drive s.pin.clear .high).shift = s.shift ∧ (s.drive s.pin.clear .high).out = s.out := by
  have := State.drive_at h .clear .high
  simp only [PinSet.at] at this
  rw [this]; exact ⟨rfl, rfl⟩

theorem State.drive_serialIn {s : State} (h : s.pin.distinct = true) (l : Level) :
    (s.drive s.pin.serialIn l).shift = s.shift ∧ (s.drive s.pin.serialIn l).out = s.out := by
  have := State.drive_at h .serialIn l
  simp only [PinSet.at] at this
  rw [this]; cases l <;> exact ⟨rfl, rfl⟩

theorem State.drive_shiftClock_low {s : State} (h : s.pin.distinct = true) :
    (s.drive s.pin.shiftClock .low).shift = s.shift ∧ (s.drive s.pin.shiftClock .low).out = s.out := by
  have := State.drive_at h .shiftClock .low
  simp only [PinSet.at] at this
  rw [this]; rcases s.level s.pin.shiftClock with _ | ⟨_ | _⟩ <;> exact ⟨rfl, rfl⟩

theorem State.drive_latchClock_low {s : State} (h : s.pin.distinct = true) :
    (s.drive s.pin.latchClock .low).shift = s.shift ∧ (s.drive s.pin.latchClock .low).out = s.out := by
  have := State.drive_at h .latchClock .low
  simp only [PinSet.at] at this
  rw [this]; rcases s.level s.pin.latchClock with _ | ⟨_ | _⟩ <;> exact ⟨rfl, rfl⟩

/-- The low-to-high transition of the shift clock shifts one bit in and leaves the outputs. -/
theorem State.drive_shiftClock_rise {s : State} (h : s.pin.distinct = true) {v : Nat} {l : Level}
    (hp : s.level s.pin.shiftClock = some .low) (hc : s.level s.pin.clear = some .high)
    (hd : s.level s.pin.serialIn = some l) (hv : s.shift = some v) :
    (s.drive s.pin.shiftClock .high).shift = some (((v <<< 1) + bitOfLevel l) % 2 ^ s.cap) ∧
    (s.drive s.pin.shiftClock .high).out = s.out := by
  have h' := State.drive_at h .shiftClock .high
  obtain ⟨h1, h2, h3, h4, h5, h6⟩ := (PinSet.distinct_iff _).mp h
  simp only [PinSet.at] at h'
  rw [h', hp]
  refine ⟨?_, rfl⟩
  simp [State.loadDriven, State.strobe, State.shiftedIn, hc, hd, hv, h1, Ne.symm h5]

/-- The low-to-high transition of the latch clock copies the shift storage to the outputs. -/
theorem State.drive_latchClock_rise {s : State} (h : s.pin.distinct = true)
    (hp : s.level s.pin.latchClock = some .low) :
    (s.drive s.pin.latchClock .high).shift = s.shift ∧ (s.drive s.pin.latchClock .high).out = s.shift := by
  have h' := State.drive_at h .latchClock .high
  simp only [PinSet.at] at h'
  rw [h', hp]; exact ⟨rfl, rfl⟩

/-- A failing write to the pin of one role can act on the load only as that role, at most once. -/
theorem State.driveFailed_at {s : State} (h : s.pin.distinct = true) (r : Role) (es : List Role) :
    s.driveFailed [s.pin.at r] es = s.setLevel (s.pin.at r) none ∨
    s.driveFailed [s.pin.at r] es = (s.setLevel (s.pin.at r) none).strobe r := by
  have hf : ∀ l : List Role, l.Nodup →
      l.filter (fun q => [s.pin.at r].contains (s.pin.at q)) = [] ∨
      l.filter (fun q => [s.pin.at r].contains (s.pin.at q)) = [r] := by
    intro l
    induction l with
    | nil => simp
    | cons q l ih =>
      intro hn
      rw [List.nodup_cons] at hn
      by_cases hq : q = r
      · subst hq
        right
        have : l.filter (fun x => [s.pin.at q].contains (s.pin.at x)) = [] := by
          rw [List.filter_eq_nil_iff]
          intro x hx
          simp only [List.contains_cons, List.contains_nil, Bool.or_false, beq_iff_eq]
          intro e
          exact hn.1 (PinSet.at_injective h e ▸ hx)
        rw [List.filter_cons_of_pos (by simp), this]
      · have : ¬ s.pin.at q = s.pin.at r := fun e => hq (PinSet.at_injective h e)
        rw [List.filter_cons_of_neg (by simpa using this)]
        exact ih hn.2
  rcases hf es.dedup es.nodup_dedup with he | he
  · left; unfold State.driveFailed; rw [he]; simp [h]
  · right; unfold State.driveFailed; rw [he]; simp [h]

/-- Driving pins of a PinSet of four distinct pins `LOW`, one after the other in any order: `OUT` stays, and `SHIFT` is
0 if `clear` is among them, otherwise unchanged. -/
theorem State.drives_low (ps : List Nat) {s : State} (hd : s.pin.distinct = true) (h : ∀ p ∈ ps, p ∈ s.pin.toList) :
    (ps.foldl (fun t p => State.drive t p .low) s).out = s.out ∧
    (ps.foldl (fun t p => State.drive t p .low) s).shift = if s.pin.clear ∈ ps then some 0 else s.shift := by
  induction ps generalizing s with
  | nil => simp
  | cons p ps ih =>
    have hp : (s.drive p .low).pin = s.pin := by have := State.sameInside_drive s p .low; rw [← this]
    obtain ⟨i1, i2⟩ := ih (s := s.drive p .low) (by rw [hp]; exact hd)
      (by rw [hp]; intro q hq; exact h q (by simp [hq]))
    rw [List.foldl_cons, i1, i2, hp]
    obtain ⟨d1, d2, d3, d4, d5, d6⟩ := (PinSet.distinct_iff _).mp hd
    have hm := h p (by simp)
    simp only [PinSet.toList, List.mem_cons, List.not_mem_nil, or_false] at hm
    rcases hm with rfl | rfl | rfl | rfl
    · simp [State.drive_serialIn hd, Ne.symm d3]
    · simp [State.drive_shiftClock_low hd, Ne.symm d5]
    · simp [State.drive_latchClock_low hd, Ne.symm d6]
    · simp [State.drive_clear_low hd]

end Sys2Proof.Machine
end

