-- ==== Sys2Proof/Laws/Commands.lean ====
section
/-! SUPPORT. What each command keeps: a property of states that every event keeps (`Keeps`), for the transactions the
command issues, holds of the state the command ends in. One lemma per operation; frames and invariants follow from
these without unfolding a command. Then what a transaction can do when no reset is scheduled. -/

namespace Sys2Proof.Machine

variable {P : State → Prop} {T : Transaction → Prop}

/-! ### What a command keeps -/

theorem Keeps.clearSeq (k : Keeps P T) {s : State} (hT : ∀ l, T (.set s.pin.clear l)) (hs : P s) :
    s.clearSeq.Holds P := by
  refine k.perform _ (fun t ht => ?_) hs
  simp only [clearActs, List.mem_cons, List.not_mem_nil, or_false, reduceCtorEq, false_or, Act.port.injEq] at ht
  rcases ht with rfl | rfl <;> exact hT _

theorem Keeps.pulse (k : Keeps P T) (r : Role) {s : State} (hT : ∀ l, T (.set (s.pin.at r) l)) (hs : P s) :
    (State.pulse r s).Holds P := by
  refine k.perform _ (fun t ht => ?_) hs
  simp only [pulseActs, List.mem_cons, List.not_mem_nil, or_false, reduceCtorEq, false_or, Act.port.injEq] at ht
  rcases ht with rfl | rfl | rfl <;> exact hT _

theorem Keeps.sendBits (k : Keeps P T) (hT : ∀ s, P s → ∀ r l, T (.set (s.pin.at r) l))
    (hn : ∀ s, P s → P s.nextBit) (n : Nat) {s : State} (hs : P s) : (State.sendBits n s).Holds P := by
  induction n generalizing s with
  | zero => exact hs
  | succ n ih =>
    refine Progress.Holds.andThen ?_ (fun t ht => ih ht)
    exact ((k.issue (hT s hs .serialIn _) hs).andThen (fun t ht => k.pulse .shiftClock (hT t ht .shiftClock) ht)).andThen hn

theorem Keeps.execWrite (k : Keeps P T) (hT : ∀ s, P s → ∀ r l, T (.set (s.pin.at r) l))
    (hr : ∀ s r, P s → P (s.respond r)) (hl : ∀ s d, P s → P (s.loadShifter d)) (hn : ∀ s, P s → P s.nextBit)
    {data : Nat} {s t : State} (hs : P s) (h : Machine.execWrite data s = .next t) : P t := by
  unfold Machine.execWrite at h
  split at h
  · cases h; exact hr _ _ hs
  · split at h
    · cases h; exact hr _ _ hs
    · refine Progress.Holds.conclude hr ?_ h
      refine (((k.clearSeq (hT s hs .clear) hs).andThen (fun u hu => ?_)).andThen
        (fun u hu => k.sendBits hT hn _ hu)).andThen (fun u hu => k.pulse .latchClock (hT u hu .latchClock) hu)
      exact hl u data hu

theorem Keeps.execClear (k : Keeps P T) (hr : ∀ s r, P s → P (s.respond r)) {s t : State}
    (hT : ∀ l, T (.set s.pin.clear l)) (hs : P s) (h : Machine.execClear s = .next t) : P t := by
  unfold Machine.execClear at h
  split at h
  · cases h; exact hr _ _ hs
  · exact Progress.Holds.conclude hr (k.clearSeq hT hs) h

theorem execCapacity_keeps (hr : ∀ s r, P s → P (s.respond r)) {s t : State} (hs : P s)
    (h : Machine.execCapacity s = .next t) : P t := by
  unfold Machine.execCapacity at h
  split at h
  · cases h; exact hr _ _ hs
  · exact Progress.Holds.conclude (p := .ok s) hr hs h

/-- The transactions of a teardown: `Set` and `Rel` on a pin of the PinSet, and the bulk `SetM`. -/
theorem Keeps.execDestroy (k : Keeps P T) (hT : ∀ s, P s → ∀ r l, T (.set (s.pin.at r) l))
    (hTm : ∀ s, P s → T (.setM s.pin.toList .low)) (hTr : ∀ s, P s → ∀ p ∈ s.pin.toList, T (.rel p))
    (hr : ∀ s r, P s → P (s.respond r)) (he : ∀ s, P s → P (s.enter .released)) {s t : State} (hs : P s)
    (h : Machine.execDestroy s = .next t) : P t := by
  unfold Machine.execDestroy at h
  split at h
  · refine Progress.Holds.conclude hr ?_ h
    exact ((((k.orWarn (k.clearSeq (hT s hs .clear) hs)).andThen
      (fun u hu => k.orWarn (k.pulse .latchClock (hT u hu .latchClock) hu))).andThen
      (fun u hu => k.orWarn (k.issue (hTm u hu) hu))).andThen
      (fun u hu => k.releaseWarning _ (hTr u hu) hu)).andThen he
  · exact Progress.Holds.conclude (p := .ok s) hr hs h

theorem Keeps.acquire (k : Keeps P T) (hc : ∀ s, P s → P s.countPin) (ps : List Nat) (hT : ∀ p ∈ ps, T (.cfg p))
    {s : State} (hs : P s) : (s.acquire ps).Holds P := by
  induction ps generalizing s with
  | nil => exact hs
  | cons p ps ih =>
    exact (k.issue (hT p (by simp)) hs).andThen (fun t ht => ih (fun q hq => hT q (by simp [hq])) (hc t ht))

theorem Keeps.rollback (k : Keeps P T) (he : ∀ s, P s → P (s.enter .failed)) {s : State}
    (hT : ∀ p ∈ s.pin.toList, T (.rel p)) (hs : P s) : s.rollback.Holds P := by
  refine (k.releaseIgnoring _ (fun p hp => hT p (List.mem_of_mem_take hp)) hs).andThen (fun t ht => ?_)
  refine Progress.Holds.andThen ?_ he
  split
  · exact ht
  · exact State.emit_holds ht (k.logged t _ ht)

/-- CONSTRUCT: either a check rejects it, or the property, holding of the state with the operands adopted, is kept by
the acquisition and the rollback. -/
theorem Keeps.execConstruct (k : Keeps P T) (hTr : ∀ s, P s → ∀ p ∈ s.pin.toList, T (.rel p))
    (hr : ∀ s r, P s → P (s.respond r)) (hc : ∀ s, P s → P s.countPin)
    (he : ∀ s st, P s → P (s.enter st)) {ps : PinSet} {n : Int} {s t : State}
    (hTc : ∀ p ∈ ps.toList, T (.cfg p)) (hs : P (s.adopt ps n))
    (h : Machine.execConstruct ps.serialIn ps.shiftClock ps.latchClock ps.clear n s = .next t) :
    (∃ r, t = s.respond r) ∨ P t := by
  unfold Machine.execConstruct at h
  split at h
  · cases h; exact .inl ⟨_, rfl⟩
  · split at h
    · cases h; exact .inl ⟨_, rfl⟩
    · right
      have ha := k.acquire hc ps.toList hTc hs
      change ((s.adopt ps n).acquire ps.toList).concludeConstruct = .next t at h
      generalize (s.adopt ps n).acquire ps.toList = pr at h ha
      cases pr with
      | ok u => exact Progress.Holds.conclude (p := .ok (u.enter .ready)) hr (he u _ ha) h
      | failed u => exact Progress.Holds.conclude hr (k.rollback (fun v => he v _) (hTr u ha) ha) h
      | abandoned u => exact Progress.Holds.conclude (p := .abandoned u) (r := .ok) hr ha h
      | hung => cases h

/-! ### Transactions when no reset is scheduled -/

theorem State.silent_mem {s : State} (h : s.nextAnswer = .silent) : Answer.silent ∈ s.answers := by
  rcases ha : s.answers with _ | ⟨a, as⟩ <;> simp_all [State.nextAnswer]

/-- With no reset scheduled a transaction is granted, denied, or never answered. -/
theorem State.issue_of_cut_none {s : State} (h : s.cut = none) (t : Transaction) :
    s.issue t = .ok (s.granted t) ∨ (∃ es, s.issue t = .failed (s.denied t es)) ∨
    (s.issue t = .hung ∧ Answer.silent ∈ s.answers) := by
  rcases s.issue_cases t with ⟨h1, _⟩ | ⟨_, h1⟩ | ⟨es, _, h1⟩ | ⟨h2, _, h1⟩ | ⟨_, h1, _⟩
  · simp [h] at h1
  · exact .inl h1
  · exact .inr (.inl ⟨es, h1⟩)
  · exact .inr (.inr ⟨h1, State.silent_mem h2⟩)
  · exact absurd h h1

theorem State.failsAt.issue {s : State} {es : List Role} (h : s.failsAt 0 es) (t : Transaction) :
    s.issue t = .failed (s.denied t es) := by
  have ha : s.nextAnswer = .err es := by
    have h2 := h.2
    rcases hs : s.answers with _ | ⟨a, as⟩ <;> simp_all [State.nextAnswer]
  simp [State.issue, h.1, ha]

theorem State.failsAt.issue_succ {s : State} {k : Nat} {es : List Role} (h : s.failsAt (k + 1) es) (t : Transaction) :
    s.issue t = .ok (s.granted t) ∧ (s.granted t).failsAt k es := by
  have h2 := h.2
  rcases hs : s.answers with _ | ⟨a, as⟩
  · simp [hs, List.replicate_succ] at h2
  · simp only [hs, List.take_succ_cons, List.replicate_succ, List.cons_append, List.cons.injEq] at h2
    obtain ⟨rfl, h2⟩ := h2
    exact ⟨by simp [State.issue, h.1, State.nextAnswer, hs], by simp [h.1], by simp [hs, h2]⟩

/-- The premise of `n` transactions passes on over `m` of them. -/
theorem State.accepts.drop {s t : State} {m n : Nat} (h : s.accepts (m + n)) (hc : t.cut = s.cut)
    (ha : t.answers = s.answers.drop m) : t.accepts n := by
  refine ⟨hc.trans h.1, fun a hm => h.2 a ?_⟩
  rw [ha] at hm
  rw [List.take_add]
  exact List.mem_append.mpr (.inr hm)

/-- `Cfg` leaves the load as it was, but for a fresh `clear` that comes up `LOW`. -/
theorem State.settled_cfg_load (s : State) (p : Nat) (a : Answer) :
    (s.settled (.cfg p) a).out = s.out ∧
    ((s.settled (.cfg p) a).shift = s.shift ∨ (p = s.pin.clear ∧ (s.settled (.cfg p) a).shift = some 0)) := by
  cases a with
  | ok => exact ⟨rfl, State.freshShift_cases (s.setOwned p (some true)) p⟩
  | err _ => exact ⟨rfl, .inl rfl⟩
  | silent => exact ⟨rfl, .inl rfl⟩

/-- `Rel` does nothing to the load. -/
theorem State.settled_rel_load (s : State) (p : Nat) (a : Answer) :
    (s.settled (.rel p) a).shift = s.shift ∧ (s.settled (.rel p) a).out = s.out := by
  cases a <;> exact ⟨rfl, rfl⟩

end Sys2Proof.Machine
end

