-- ==== Sys2Proof/Laws/Encoding.lean ====
section
/-! SUPPORT. The laws of the byte helpers of the decoder and encoder, and of the mask of WRITE. -/

namespace Sys2Proof

theorem beValue_append (ds : List Byte) (d : Byte) : beValue (ds ++ [d]) = beValue ds * 256 + d.toNat := by
  simp [beValue]

theorem beValue_cons (d : Byte) (ds : List Byte) : beValue (d :: ds) = d.toNat * 256 ^ ds.length + beValue ds := by
  have key : ∀ (ds : List Byte) (v : Nat),
      ds.foldl (fun v d => v * 256 + d.toNat) v = v * 256 ^ ds.length + beValue ds := by
    intro ds
    induction ds with
    | nil => intro v; simp [beValue]
    | cons e es ih => intro v; simp only [List.foldl_cons, beValue, List.length_cons]; rw [ih, ih]; ring
  simp only [beValue, List.foldl_cons]
  rw [key]
  simp [beValue]

theorem leBytes_length (fuel v : Nat) : (leBytes fuel v).length ≤ fuel := by
  induction fuel generalizing v with
  | zero => simp [leBytes]
  | succ fuel ih =>
    unfold leBytes
    split
    · simp
    · have := ih (v / 256)
      simp only [List.length_cons]
      omega

/-- The shortest bytes of a value that fits hold it. -/
theorem beValue_leBytes (fuel v : Nat) (h : v < 256 ^ (fuel + 1)) : beValue (leBytes (fuel + 1) v).reverse = v := by
  induction fuel generalizing v with
  | zero => simp only [pow_one, zero_add] at h; simp [leBytes, h, beValue]
  | succ fuel ih =>
    unfold leBytes
    split
    · simp only [List.reverse_singleton, beValue, List.foldl_cons, List.foldl_nil, BitVec.toNat_ofNat]; omega
    · rw [List.reverse_cons, beValue_append, ih]
      · simp only [BitVec.toNat_ofNat]; omega
      · exact Nat.div_lt_of_lt_mul (by rwa [pow_succ, Nat.mul_comm] at h)

namespace Machine

/-- `DSR & MASK` selects, after `k` shifts of `data`, bit `CAP - 1 - k` of `data`. -/
theorem maskedBit_shifted (data cap k : Nat) (h : k < cap) :
    maskedBit ((data <<< k) % 2 ^ cap) (msbMask cap) = data.testBit (cap - 1 - k) := by
  have hbit : (data <<< k % 2 ^ cap).testBit (cap - 1) = data.testBit (cap - 1 - k) := by
    have h1 : 0 < cap := by omega
    have h2 : k ≤ cap - 1 := by omega
    simp [Nat.testBit_mod_two_pow, Nat.testBit_shiftLeft, h1, h2]
  have hand : (data <<< k % 2 ^ cap) &&& (1 <<< (cap - 1)) =
      if (data <<< k % 2 ^ cap).testBit (cap - 1) then 2 ^ (cap - 1) else 0 := by
    rw [Nat.one_shiftLeft]
    apply Nat.eq_of_testBit_eq
    intro i
    simp only [Nat.testBit_and, Nat.testBit_two_pow]
    by_cases hi : cap - 1 = i
    · subst hi; split <;> simp_all
    · simp only [hi]; split <;> simp [Nat.testBit_two_pow, hi]
  unfold maskedBit msbMask
  rw [hand, hbit]
  cases data.testBit (cap - 1 - k) <;> simp

end Machine

end Sys2Proof
end

