-- ==== Sys2Proof/Laws/PerInstr.lean ====
section
/-! SUPPORT. Per-command laws of the frames: the family `FrameShape`. -/

namespace Sys2Proof.Laws.FrameShape

/-- The frame of a command the encoding can carry starts with an opcode that R100 knows and has the length R100
expects (30_encoding R96, R100). -/
def Statement (i : Instr) : Prop :=
  i.wellFormed = true → expectedLength (encode i) = some (encode i).length

theorem construct (serialIn shiftClock latchClock clearPin : Nat) (numSlaves : Int) :
    Statement (.construct serialIn shiftClock latchClock clearPin numSlaves) := fun _ => rfl

theorem capacity : Statement .capacity := fun _ => rfl

theorem clear : Statement .clear := fun _ => rfl

theorem write (data : Nat) : Statement (.write data) := by
  intro _
  have h : (dataBytes data).length < 256 := by
    have := leBytes_length Config.lenMax data
    simp only [Config.lenMax] at this
    simp only [dataBytes, Config.lenMax, List.length_reverse]
    omega
  have hw : ¬ opWrite = opConstruct ∧ ¬ (opWrite = opCapacity ∨ opWrite = opClear ∨ opWrite = opDestroy) := by decide
  simp only [encode, writeFrame, expectedLength, hw, if_false, if_true, List.headD_cons, BitVec.toNat_ofNat,
    List.length_cons, Nat.mod_eq_of_lt h, Option.some.injEq]
  omega

theorem destroy : Statement .destroy := fun _ => rfl

end Sys2Proof.Laws.FrameShape
end

