-- ==== Sys2Proof/Tests/Slice0.lean ====
section
/-! SUPPORT. Tests: ill-formed operands, frames and responses written out from the spec, one step of each command, each
with the vector of spec/95_test_vectors.md it is taken from; then a witness for the hypotheses of every obligation that
has any. -/

namespace Sys2Proof.Tests

open Sys2Proof Sys2Proof.Machine

/-! ### Well-formedness: one ill-formed command per check (00_scope R10, 30_encoding R98) -/

theorem test_wf_accepts : (Instr.construct 0 255 0 255 (-128)).wellFormed = true ∧
    (Instr.construct 0 255 0 255 127).wellFormed = true ∧ (Instr.write (2 ^ 2040 - 1)).wellFormed = true := by
  decide +kernel

theorem test_wf_serialIn : (Instr.construct 256 1 2 3 0).wellFormed = false := by decide
theorem test_wf_shiftClock : (Instr.construct 0 256 2 3 0).wellFormed = false := by decide
theorem test_wf_latchClock : (Instr.construct 0 1 256 3 0).wellFormed = false := by decide
theorem test_wf_clear : (Instr.construct 0 1 2 256 0).wellFormed = false := by decide
theorem test_wf_slaves_high : (Instr.construct 0 1 2 3 128).wellFormed = false := by decide
theorem test_wf_slaves_low : (Instr.construct 0 1 2 3 (-129)).wellFormed = false := by decide
theorem test_wf_data : (Instr.write (2 ^ 2040)).wellFormed = false := by decide +kernel

/-! ### Decoding: words written out from the encoding tables (30_encoding R96 to R101) -/

/-- Vectors E1, E3, E4, E5, E6: bytes 1 to 4 are the pins in operand order, byte 5 the signed slave count. -/
theorem test_decode_construct :
    decode [0b00000001#8, 0b00010001#8, 0b00011011#8, 0b00010110#8, 0b00010111#8, 0b00000000#8] =
      .ok (.construct 17 27 22 23 0) ∧
    decode [0x01#8, 0x11#8, 0x1B#8, 0x16#8, 0x17#8, 0x7F#8] = .ok (.construct 17 27 22 23 127) ∧
    decode [0x01#8, 0x11#8, 0x1B#8, 0x16#8, 0x17#8, 0xFF#8] = .ok (.construct 17 27 22 23 (-1)) ∧
    decode [0x01#8, 0x11#8, 0x1B#8, 0x16#8, 0x17#8, 0x80#8] = .ok (.construct 17 27 22 23 (-128)) ∧
    decode [0x01#8, 0x00#8, 0xFF#8, 0x00#8, 0xFF#8, 0x00#8] = .ok (.construct 0 255 0 255 0) := by decide

/-- Vectors E7, E8, E9. -/
theorem test_decode_bare : decode [0b00000010#8] = .ok .capacity ∧ decode [0b00000011#8] = .ok .clear ∧
    decode [0b00000101#8] = .ok .destroy := by decide

/-- Vectors E10 to E14: big-endian, `LEN = 0` is the value 0, leading zeros do not count. -/
theorem test_decode_write : decode [0b00000100#8, 0x01#8, 0xA5#8] = .ok (.write 0xA5) ∧
    decode [0x04#8, 0x00#8] = .ok (.write 0) ∧ decode [0x04#8, 0x02#8, 0x12#8, 0x34#8] = .ok (.write 0x1234) ∧
    decode [0x04#8, 0x03#8, 0x00#8, 0x00#8, 0xA5#8] = .ok (.write 0xA5) ∧
    decode [0x04#8, 0x02#8, 0x01#8, 0x00#8] = .ok (.write 256) := by decide

/-- Vectors E15 to E24. -/
theorem test_decode_illegal : decode [] = .error .emptyFrame ∧ decode [0x00#8] = .error .reservedOpcode ∧
    decode [0x06#8] = .error .reservedOpcode ∧ decode [0xFF#8, 0x00#8] = .error .reservedOpcode ∧
    decode [0x02#8, 0x00#8] = .error .wrongLength ∧
    decode [0x01#8, 0x11#8, 0x1B#8, 0x16#8, 0x17#8] = .error .wrongLength ∧
    decode [0x01#8, 0x11#8, 0x1B#8, 0x16#8, 0x17#8, 0x00#8, 0x00#8] = .error .wrongLength ∧
    decode [0x04#8] = .error .wrongLength ∧ decode [0x04#8, 0x02#8, 0xA5#8] = .error .wrongLength ∧
    decode [0x04#8, 0x01#8, 0xA5#8, 0x00#8] = .error .wrongLength := by decide

/-- The frames of the programs P1 to P3, and of `WRITE 0` (30_encoding R104). -/
theorem test_encode : encode (.construct 17 27 22 23 (-1)) = [0x01#8, 0x11#8, 0x1B#8, 0x16#8, 0x17#8, 0xFF#8] ∧
    encode .capacity = [0x02#8] ∧ encode .clear = [0x03#8] ∧ encode (.write 0) = [0x04#8, 0x01#8, 0x00#8] ∧
    encode (.write 0x1234) = [0x04#8, 0x02#8, 0x12#8, 0x34#8] ∧ encode .destroy = [0x05#8] := by decide

/-- The response encodings listed in section 2.1 of the vectors. -/
theorem test_response_frames : Response.frame (.okValue 8) = [0x00#8, 0x00#8, 0x08#8] ∧
    Response.frame (.okValue 1024) = [0x00#8, 0x04#8, 0x00#8] ∧ Response.frame (.pinSetupFailed 3) = [0x02#8, 0x03#8] ∧
    Response.frame .illegalCommand = [0x05#8] := by decide

/-- The rows of spec/opcode_table.json, numbered from the least significant bit of byte 0. -/
theorem test_table_words : decodeTableWord 8 0x02 = some .capacity ∧ decodeTableWord 8 0x03 = some .clear ∧
    decodeTableWord 8 0x05 = some .destroy ∧ decodeTableWord 8 0x01 = some (.construct 0 0 0 0 0) ∧
    decodeTableWord 48 0x001716_1B11_01 = some (.construct 17 27 22 23 0) ∧ decodeTableWord 8 0x04 = some (.write 0) ∧
    decodeTableWord 16 0x0204 = some (.write 0) ∧ decodeTableWord 24 0xA50104 = some (.write 0xA5) ∧
    decodeTableWord 8 0x06 = none := by decide

/-! ### States -/

/-- The example pins of the vectors. -/
def pins : PinSet := { serialIn := 17, shiftClock := 27, latchClock := 22, clear := 23 }

/-- `Ready` with `CAP = 8`, four pins owned, the levels after `WRITE 0xA5`, the load `A5`/`A5`. -/
def ready : State :=
  { State.reset with
    st := .ready, pin := pins, ns := 0, cap := 8, shift := some 0xA5, out := some 0xA5
    space := [(17, { owned := some true, level := some .high }), (22, { owned := some true, level := some .low }),
      (23, { owned := some true, level := some .high }), (27, { owned := some true, level := some .low })] }

/-- `Ready` directly after CONSTRUCT: no level driven, the load unknown. -/
def constructed : State :=
  { State.reset with
    st := .ready, pin := pins, ns := 0, cap := 8
    space := [(17, { owned := some true, level := none }), (22, { owned := some true, level := none }),
      (23, { owned := some true, level := none }), (27, { owned := some true, level := none })] }

/-- Four equal pins: outside the load model (93 U2), inside SRBB's own. -/
def equalPins : State :=
  { State.reset with
    st := .ready, pin := { serialIn := 5, shiftClock := 5, latchClock := 5, clear := 5 }, ns := 0, cap := 8
    space := [(5, { owned := some true, level := none })] }

def failed : State := { State.reset with st := .failed, pin := pins, cap := 8 }
def released : State := { State.reset with st := .released, pin := pins, cap := 8 }

/-- `ready` with answers to come. -/
def answered (as : List Answer) : State := { ready with answers := as }

/-- `State.reset` with answers to come. -/
def fresh (as : List Answer) : State := { State.reset with answers := as }

def oks (n : Nat) : List Answer := List.replicate n .ok

/-- `n` answers `ok`, then one `err`. -/
def okThenErr (n : Nat) (edges : List Role) : List Answer := oks n ++ [Answer.err edges]

/-- The next state, or the state unchanged where there is none. -/
def after (i : Instr) (s : State) : State :=
  match exec i s with
  | .next t => t
  | .fault _ => s
  | .refused _ => s

def stepped (s : State) : State :=
  match step s with
  | .next t => t
  | .fault _ => s
  | .refused _ => s

/-! ### One step of each command -/

/-- Vector K1. -/
theorem test_construct_ready : (after (.construct 17 27 22 23 0) State.reset).trace =
      [.port (.cfg 17) .ok, .port (.cfg 27) .ok, .port (.cfg 22) .ok, .port (.cfg 23) .ok, .respond .ok] ∧
    (after (.construct 17 27 22 23 0) State.reset).st = .ready ∧
    (after (.construct 17 27 22 23 0) State.reset).cap = 8 ∧
    (after (.construct 17 27 22 23 0) State.reset).owned 22 = some true := by decide +kernel

/-- 70_reset R252: a fresh `clear` that comes up `LOW` clears the load, one that comes up `HIGH` does not. -/
theorem test_fresh_clear :
    (Config.freshClearLow 3 = true → (after (.construct 17 27 22 23 0) { State.reset with shift := some 0xA5 }).shift = some 0) ∧
    (Config.freshClearLow 3 = false →
      (after (.construct 17 27 22 23 0) { State.reset with shift := some 0xA5 }).shift = some 0xA5) :=
  ⟨fun h => if_pos ⟨rfl, h⟩, fun h => if_neg (fun k => Bool.noConfusion (h.symm.trans k.2))⟩

/-- Vector K10: `Cfg(23)` and, in the rollback, `Rel(27)` answer `err`. -/
theorem test_construct_rolls_back :
    (after (.construct 17 27 22 23 0) (fresh [.ok, .ok, .ok, .err [], .ok, .err [], .ok])).trace =
      [.port (.cfg 17) .ok, .port (.cfg 27) .ok, .port (.cfg 22) .ok, .port (.cfg 23) .err, .port (.rel 17) .ok,
        .port (.rel 27) .err, .port (.rel 22) .ok, .log .rollback, .respond (.pinSetupFailed 3)] ∧
    (after (.construct 17 27 22 23 0) (fresh [.ok, .ok, .ok, .err [], .ok, .err [], .ok])).st = .failed ∧
    (after (.construct 17 27 22 23 0) (fresh [.ok, .ok, .ok, .err [], .ok, .err [], .ok])).owned 27 = none := by decide +kernel

/-- Vectors Q2 and Q6. -/
theorem test_capacity : (after .capacity { ready with cap := 16 }).responses.map Response.frame =
      [[0x00#8, 0x00#8, 0x10#8]] ∧
    (after .capacity released).responses.map Response.frame = [[0x04#8]] := by decide +kernel

/-- Vector L1. -/
theorem test_clear : (after .clear ready).trace =
      [.port (.set 23 .low) .ok, .wait, .port (.set 23 .high) .ok, .respond .ok] ∧
    (after .clear ready).shift = some 0 ∧ (after .clear ready).out = some 0xA5 := by decide +kernel

/-- Vector L5: the second `Set` answers `err`. -/
theorem test_clear_fault : (after .clear (answered [.ok, .err []])).responses = [.pinFault] ∧
    (after .clear (answered [.ok, .err []])).level 23 = none ∧
    (after .clear (answered [.ok, .err []])).shift = some 0 ∧
    (after .clear (answered [.ok, .err []])).st = .ready := by decide +kernel

/-- Vector W1, from an unknown load: 56 events, `SHIFT = OUT = A5`, `serial_in` left `HIGH`. -/
theorem test_write : (after (.write 0xA5) constructed).trace.length = 57 ∧
    (after (.write 0xA5) constructed).shift = some 0xA5 ∧ (after (.write 0xA5) constructed).out = some 0xA5 ∧
    (after (.write 0xA5) constructed).level 17 = some .high := by decide +kernel

/-- Vector W14: the rising `Set` of shift pulse 1 answers `err`; the edge may or may not have occurred. -/
theorem test_write_fault :
    (after (.write 0xA5) (answered (okThenErr 8 []))).shift = some 0x01 ∧
    (after (.write 0xA5) (answered (okThenErr 8 [.shiftClock]))).shift = some 0x02 ∧
    (after (.write 0xA5) (answered (okThenErr 8 [.shiftClock]))).out = some 0xA5 ∧
    (after (.write 0xA5) (answered (okThenErr 8 []))).trace.length = 14 ∧
    (after (.write 0xA5) (answered (okThenErr 8 []))).level 27 = none := by decide +kernel

/-- Vector T1: the last five events, `Released`, the outputs blanked. -/
theorem test_destroy : (after .destroy ready).trace.drop 8 =
      [.port (.setM [17, 27, 22, 23] .low) .ok, .port (.rel 17) .ok, .port (.rel 27) .ok, .port (.rel 22) .ok,
        .port (.rel 23) .ok, .respond .ok] ∧
    (after .destroy ready).st = .released ∧ (after .destroy ready).out = some 0 := by decide +kernel

/-- Vector T6: the clear fails; what is latched depends on whether it took effect. -/
theorem test_destroy_clear_fails : (after .destroy (answered [.err []])).trace.take 2 =
      [.port (.set 23 .low) .err, .log .teardownWarning] ∧
    (after .destroy (answered [.err []])).out = some 0xA5 ∧
    (after .destroy (answered [.err [.clear]])).out = some 0 ∧
    (after .destroy (answered [.err []])).shift = some 0 := by decide +kernel

/-- Vector M2: a Pulse on a pin without a level has one rising transition; the top bit is lost. -/
theorem test_pulse : State.pulse .shiftClock
      { constructed with
        shift := some 0x80
        space := [(17, { owned := some true, level := some .low }), (22, { owned := some true, level := none }),
          (23, { owned := some true, level := some .high }), (27, { owned := some true, level := none })] } =
    .ok { constructed with
      shift := some 0x00, seq := 5, trace := pulseEvents 27
      space := [(17, { owned := some true, level := some .low }), (22, { owned := some true, level := none }),
        (23, { owned := some true, level := some .high }), (27, { owned := some true, level := some .low })] } := by
  decide +kernel

/-- 70_reset R242: a reset after the first event of CLEAR leaves `clear` `LOW`, with no response. -/
theorem test_reset_cuts : (stepped { ready with inbox := [.submit [0x03#8] (some 1)] }).trace =
      [.port (.set 23 .low) .ok] ∧
    (stepped { ready with inbox := [.submit [0x03#8] (some 1)] }).st = .uninitialized ∧
    (stepped { ready with inbox := [.submit [0x03#8] (some 1)] }).level 23 = some .low := by decide +kernel

/-- 70_reset R251: a transaction that is never answered hangs; a reset ends the hang. -/
theorem test_no_answer : step { answered [.ok, .silent] with inbox := [.submit [0x03#8] none] } = .fault .noAnswer ∧
    (stepped { answered [.ok, .silent] with inbox := [.submit [0x03#8] (some 9)] }).st = .uninitialized := ⟨rfl, by decide +kernel⟩

/-- With no move left the block stays idle (60_exceptions R233). -/
theorem test_idle : step ready = .next ready := rfl

/-- The next step runs the placed frame, from reset and from `Ready`. -/
theorem test_withFetchWord : step (State.reset.withFetchWord 8 0x01) = exec (.construct 0 0 0 0 0) State.reset ∧
    step (State.reset.withFetchWord 8 0x02) = exec .capacity State.reset ∧
    step (State.reset.withFetchWord 8 0x03) = exec .clear State.reset ∧
    step (State.reset.withFetchWord 24 0xA50104) = exec (.write 0xA5) State.reset ∧
    step (ready.withFetchWord 8 0x05) = exec .destroy ready := ⟨rfl, rfl, rfl, rfl, rfl⟩

/-! ### Witnesses: states that meet the hypotheses of the obligations -/

theorem witness_decode_of_encode : (Instr.construct 255 0 255 0 127).wellFormed = true ∧
    Instr.capacity.wellFormed = true ∧ Instr.clear.wellFormed = true ∧ (Instr.write 0).wellFormed = true ∧
    Instr.destroy.wellFormed = true := by decide +kernel

theorem witness_write_frame : (List.replicate 255 0xFF#8 : List Byte).length ≤ 255 ∧ ([] : List Byte).length ≤ 255 ∧
    (List.replicate 254 0xFF#8 : List Byte).length ≤ 254 :=
  ⟨List.length_replicate.le, Nat.zero_le _, List.length_replicate.le⟩

/-- A frame for each line of R101, at its boundary. -/
theorem witness_illegal_frames : IllegalFrame [] ∧ IllegalFrame [0x00#8] ∧ IllegalFrame [0x06#8] ∧
    IllegalFrame [0xFF#8] ∧ IllegalFrame [0x01#8, 0#8, 0#8, 0#8, 0#8] ∧
    IllegalFrame [0x01#8, 0#8, 0#8, 0#8, 0#8, 0#8, 0#8] ∧ IllegalFrame [0x02#8, 0#8] ∧ IllegalFrame [0x04#8] ∧
    IllegalFrame [0x04#8, 0x01#8] := by
  refine ⟨.inl rfl, .inr (.inl ⟨_, _, rfl, ?_⟩), .inr (.inl ⟨_, _, rfl, ?_⟩), .inr (.inl ⟨_, _, rfl, ?_⟩),
    .inr (.inr (.inl ⟨_, rfl, ?_⟩)), .inr (.inr (.inl ⟨_, rfl, ?_⟩)),
    .inr (.inr (.inr (.inl ⟨_, _, rfl, ?_, ?_⟩))), .inr (.inr (.inr (.inr (.inl rfl)))),
    .inr (.inr (.inr (.inr (.inr ⟨_, _, rfl, ?_⟩))))⟩ <;> decide

theorem witness_illegal_step : IllegalFrame [0x07#8] ∧
    ({ released with inbox := [.submit [0x07#8] none] } : State).inbox = .submit [0x07#8] none :: [] ∧
    ({ released with inbox := [.submit [0x07#8] none] } : State).cut = none :=
  ⟨.inr (.inl ⟨_, _, rfl, by decide⟩), rfl, rfl⟩

theorem witness_step_runs : ({ ready with inbox := [.submit [0x05#8] none, .reset] } : State).inbox =
      .submit [0x05#8] none :: [.reset] ∧ decode [0x05#8] = .ok .destroy := by decide

theorem witness_reset_idle : ({ ready with inbox := [.reset] } : State).inbox = .reset :: [] := rfl

/-- A reset inside CLEAR, and one after its response. -/
theorem witness_reset_cuts : ∃ u, decode [0x03#8] = .ok .clear ∧
    exec .clear { ready with inbox := [], seq := 0, cut := none } = .next u ∧
    u.trace = ready.trace ++ ([.port (.set 23 .low) .ok, .wait, .port (.set 23 .high) .ok, .respond .ok] : List Event) ∧
    ({ ready with inbox := [.submit [0x03#8] (some 2)] } : State).inbox = .submit [0x03#8] (some 2) :: [] ∧
    (∀ n ∈ [0, 1, 3, 4], ({ ready with inbox := [.submit [0x03#8] (some n)] } : State).inbox =
      .submit [0x03#8] (some n) :: []) :=
  ⟨after .clear ready, rfl, rfl, by decide, rfl, fun _ _ => rfl⟩

theorem witness_construct_succeeds : (fresh (oks 4)).st = .uninitialized ∧ (0 : Int) ≤ 0 ∧ (fresh (oks 4)).accepts 4 := by
  decide

theorem witness_fresh_pins : State.reset.st = .uninitialized ∧ pins.distinct = true ∧ 0xA5 < 2 ^ ((0 + 1) * 8) ∧
    State.reset.accepts (4 + (4 * ((0 + 1) * 8) + 5)) := by decide

theorem witness_construct_negative : State.reset.st = .uninitialized ∧ (-1 : Int) < 0 ∧ State.reset.cut = none := by
  decide

theorem witness_construct_outside : ready.st ≠ .uninitialized ∧ ready.cut = none ∧ failed.st ≠ .uninitialized ∧
    failed.cut = none ∧ released.st ≠ .uninitialized ∧ released.cut = none := by decide

/-- The first pin fails; the last pin fails and a release of the rollback too. -/
theorem witness_construct_rolls_back : (fresh [.err []]).st = .uninitialized ∧ (fresh [.err []]).failsAt 0 [] ∧
    (∀ a ∈ ((fresh [.err []]).answers.drop 1).take 0, a ≠ Answer.silent) ∧
    (fresh [.ok, .ok, .ok, .err [], .ok, .err []]).failsAt 3 [] ∧
    (∀ a ∈ ((fresh [.ok, .ok, .ok, .err [], .ok, .err []]).answers.drop 4).take 3, a ≠ Answer.silent) ∧
    pins.clear ∉ pins.toList.take 3 := by decide

theorem witness_all_or_nothing : (fresh [.ok, .err []]).answered ∧ (fresh [.ok, .err []]).st ≠ .ready ∧
    (∀ p ∈ pins.toList, (fresh [.ok, .err []]).owned p = some false) ∧ (fresh []).answered ∧ (fresh []).st ≠ .ready ∧
    (∀ p ∈ pins.toList, (fresh []).owned p = some false) := by decide

/-- Each command answers a next state: the hypothesis of the frames. -/
theorem witness_frames : (∃ t, exec (.construct 17 27 22 23 0) State.reset = .next t) ∧
    (∃ t, exec .clear ready = .next t) ∧ (∃ t, exec (.write 1) ready = .next t) ∧
    (∃ t, exec .destroy ready = .next t) ∧ (∃ t, exec .capacity ready = .next t) :=
  ⟨⟨_, rfl⟩, ⟨_, rfl⟩, ⟨_, rfl⟩, ⟨_, rfl⟩, ⟨_, rfl⟩⟩

theorem witness_capacity : ready.st = .ready ∧ ready.cut = none ∧ released.st ≠ .ready ∧ released.cut = none ∧
    State.reset.st = .uninitialized ∧ State.reset.accepts 4 := by decide

theorem witness_clear : ready.st = .ready ∧ (answered (oks 4)).accepts 4 ∧ ready.pin.distinct = true ∧
    equalPins.st = .ready ∧ equalPins.accepts 2 ∧ equalPins.pin.distinct = false := by decide

/-- The four cases of CLEAR. -/
theorem witness_clear_cases : failed.st ≠ .ready ∧ failed.cut = none ∧ ready.st = .ready ∧ ready.accepts 2 ∧
    (answered [.err [.clear]]).failsAt 0 [.clear] ∧ (answered [.ok, .err []]).failsAt 1 [] := by decide

/-- The largest value that fits, on distinct and on equal pins. -/
theorem witness_write : ready.st = .ready ∧ 255 < 2 ^ ready.cap ∧ 0 < ready.cap ∧
    (answered (oks 37)).accepts (4 * ready.cap + 5) ∧ ready.pin.distinct = true ∧
    equalPins.st = .ready ∧ 255 < 2 ^ equalPins.cap ∧ equalPins.accepts (4 * equalPins.cap + 5) := by decide

/-- The first and the last bit. -/
theorem witness_shift : ready.pin.distinct = true ∧ 0xA5 < 2 ^ ready.cap ∧ 0 < ready.cap ∧ 7 < ready.cap ∧
    (answered (oks 34)).accepts (2 + 4 * (7 + 1)) ∧ ready.accepts (2 + 4 * (0 + 1)) := by decide

/-- The smallest value rejected and the largest accepted. -/
theorem witness_range : ready.st = .ready ∧ ready.cut = none ∧ 2 ^ ready.cap ≤ 256 ∧ 255 < 2 ^ ready.cap ∧
    ready.accepts (4 * ready.cap + 5) := by decide

theorem witness_two_writes : ready.st = .ready ∧ ready.pin.distinct = true ∧ 0xFF < 2 ^ ready.cap ∧ 0x01 < 2 ^ ready.cap ∧
    (answered (oks 74)).accepts (2 * (4 * ready.cap + 5)) := by decide +kernel

/-- The first `Set`, the last one before the latch pulse, the first and the last of the latch pulse. -/
theorem witness_write_fault : (answered [.err []]).failsAt 0 [] ∧ (answered (okThenErr 33 [])).failsAt 33 [] ∧
    33 < 4 * ready.cap + 2 ∧ (answered (okThenErr 34 [])).failsAt 34 [] ∧
    (answered (okThenErr 36 [.latchClock])).failsAt 36 [.latchClock] ∧ 36 < 4 * ready.cap + 5 ∧
    ready.st = .ready ∧ 0xA5 < 2 ^ ready.cap := by decide +kernel

theorem witness_destroy : ready.st = .ready ∧ (answered (oks 10)).accepts 10 ∧ equalPins.st = .ready ∧
    equalPins.accepts 10 ∧ State.reset.st ≠ .ready ∧ failed.st ≠ .ready ∧ released.st ≠ .ready ∧
    State.reset.cut = none := by decide

theorem witness_destroy_best_effort : (answered [.err [], .err [], .err []]).st = .ready ∧
    (answered [.err [], .err [], .err []]).answered := by decide

/-- The three clauses about a Pulse. -/
theorem witness_pulse : ready.accepts 3 ∧ ready.pin.distinct = true ∧ ready.shift = some 0xA5 ∧
    ready.level ready.pin.clear = some .high ∧ ready.level ready.pin.serialIn = some .high ∧
    constructed.accepts 3 ∧ constructed.pin.distinct = true ∧ equalPins.accepts 3 := by decide

/-- The first and the last failing transaction of each step of a teardown, every later answer `ok`. -/
theorem witness_destroy_skips : ready.st = .ready ∧ ready.pin.distinct = true ∧
    ∀ k ∈ [0, 1, 2, 4, 5, 6, 9], k < 10 ∧ (answered (okThenErr k [] ++ [.ok])).failsAt k [] ∧
      ∀ a ∈ (answered (okThenErr k [] ++ [.ok])).answers.drop (k + 1), a = Answer.ok := by decide

theorem witness_bulk : ready.pin.distinct = true ∧ [23, 22, 27, 17].Perm ready.pin.toList ∧ ready.accepts 1 := by decide

theorem witness_cfg_clear : ready.issue (.cfg ready.pin.clear) = .ok (ready.granted (.cfg ready.pin.clear)) := rfl

/-- A transaction of each kind, answered `ok`, and a `Cfg` and a `Rel` answered `err`. -/
theorem witness_other_events : ready.pin.distinct = true ∧
    State.reset.issue (.cfg 17) = .ok (State.reset.granted (.cfg 17)) ∧
    (fresh [.err []]).issue (.cfg 17) = .failed ((fresh [.err []]).denied (.cfg 17) []) ∧
    ready.issue (.rel 17) = .ok (ready.granted (.rel 17)) ∧
    (answered [.err []]).issue (.rel 17) = .failed ((answered [.err []]).denied (.rel 17) []) ∧
    ready.issue (.set 17 .low) = .ok (ready.granted (.set 17 .low)) ∧
    ready.issue (.set 27 .low) = .ok (ready.granted (.set 27 .low)) ∧
    ready.issue (.set 22 .low) = .ok (ready.granted (.set 22 .low)) ∧
    ready.issue (.set 23 .high) = .ok (ready.granted (.set 23 .high)) := by decide

theorem witness_one_response : ready.cut = none ∧ ∃ t, exec .clear ready = .next t := ⟨rfl, _, rfl⟩

theorem witness_terminal_steps : (∃ t, step { failed with inbox := [.reset] } = .next t) ∧
    (∃ t, step { released with inbox := [.submit [0x03#8] none] } = .next t) ∧
    (∃ t, step { released with inbox := [.submit [0x05#8] (some 0)] } = .next t) := ⟨⟨_, rfl⟩, ⟨_, rfl⟩, ⟨_, rfl⟩⟩

theorem witness_terminal : failed.st = .failed ∧ released.st = .released ∧ (∃ t, exec .destroy failed = .next t) ∧
    (∃ t, exec (.construct 17 27 22 23 0) released = .next t) := ⟨rfl, rfl, ⟨_, rfl⟩, ⟨_, rfl⟩⟩

/-- Any other command; and CONSTRUCT outside `Uninitialized`. -/
theorem witness_registers_fixed : (∃ t, exec .clear ready = .next t) ∧
    (∀ p0 p1 p2 p3 n, Instr.clear ≠ .construct p0 p1 p2 p3 n) ∧
    (∃ t, exec (.construct 1 2 3 4 0) ready = .next t) ∧ ready.st ≠ .uninitialized :=
  ⟨⟨_, rfl⟩, fun _ _ _ _ _ => nofun, ⟨_, rfl⟩, by decide⟩

theorem witness_counts : State.reset.st = .uninitialized ∧ State.reset.accepts 4 ∧ ready.st = .ready ∧ ready.accepts 0 ∧
    ready.accepts 2 ∧ 0 < 2 ^ ready.cap ∧ ready.accepts (4 * ready.cap + 5) ∧ ready.accepts 10 ∧ ready.accepts 3 := by
  decide

/-- Answered, hanging, and hanging at once. -/
theorem witness_ends : (answered [.err [], .ok]).answered ∧
    exec .destroy (answered [.ok, .silent]) = .fault .noAnswer ∧ (answered [.silent]).st = .ready ∧
    (answered [.silent]).cut = none ∧ (answered [.silent]).answers = .silent :: [] :=
  ⟨by decide, rfl, rfl, rfl, rfl⟩

/-- The four commands that a state forbids, each in a state that forbids it. -/
theorem witness_invalid_commands : ready.cut = none ∧ ready.st ≠ .uninitialized ∧ State.reset.cut = none ∧
    State.reset.st ≠ .ready ∧ failed.st ≠ .ready ∧ released.st ≠ .ready := by decide

/-- A good run in `Ready` and one before CONSTRUCT. -/
theorem witness_good : ready.cut = none ∧ (∀ a ∈ ready.answers, a = Answer.ok) ∧ ready.good = true ∧ ready.st = .ready ∧
    State.reset.cut = none ∧ (∀ a ∈ State.reset.answers, a = Answer.ok) ∧ State.reset.good = true ∧
    State.reset.st = .uninitialized := by decide

theorem witness_same_inside : ready.SameInside { ready with space := [], shift := none, out := some 3 } := rfl

theorem witness_same_lasting : ready.SameLasting { ready with dsr := 9, mask := 4, bitcnt := 2, acq := 3 } := rfl

/-- After reset with any contents, in `Failed`, and in `Ready`. -/
theorem witness_unwritten : State.reset.SameWritten { State.reset with pin := pins, ns := 3, cap := 9 } ∧
    failed.SameWritten { failed with cap := 16 } ∧ ready.SameWritten ready :=
  ⟨⟨rfl, nofun⟩, ⟨rfl, nofun⟩, ⟨rfl, fun _ => rfl⟩⟩

/-- The invariant holds in `Ready`, with the levels a WRITE leaves, and the step answers a next state. -/
theorem witness_invariant : ({ ready with inbox := [.submit [0x04#8, 0x01#8, 0x3C#8] none] } : State).Inv ∧
    ∃ t, step { ready with inbox := [.submit [0x04#8, 0x01#8, 0x3C#8] none] } = .next t := by
  refine ⟨⟨by decide, by decide, fun _ r => ?_, by decide, by decide, by decide⟩, ⟨_, rfl⟩⟩
  cases r <;> decide

end Sys2Proof.Tests
end

/-! ## Two runs of one command, side by side

`Sys2Proof/Laws/Alike.lean` says that a relation every event respects is respected by the shared operations. Here the
same for the loops and the commands, each under the registers it reads and the updates it makes. -/

namespace Sys2Proof.Machine

section TwoRuns

variable {R : State → State → Prop}

/-! ### Ending a command -/

theorem Respected.raise (k : Respected R) {s t : State} (h : R s t) (e : Response) :
    StepResult.Alike R (s.raise e) (t.raise e) := k.responded e h

/-! ### WRITE's loop (42_write R150) -/

/-- One bit is sent alike from related states that select the same bit. -/
theorem Respected.sendBit (k : Respected R)
    (hbit : ∀ {s t}, R s t → maskedBit s.dsr s.mask = maskedBit t.dsr t.mask)
    (hnext : ∀ {s t}, R s t → R s.nextBit t.nextBit) {s t : State} (h : R s t) : s.sendBit.Alike R t.sendBit := by
  have hset : (s.issue (.set s.pin.serialIn (levelOfBit (maskedBit s.dsr s.mask)))).Alike R
      (t.issue (.set t.pin.serialIn (levelOfBit (maskedBit t.dsr t.mask)))) := by
    rw [k.pin h, hbit h]; exact k.issue h _
  exact (hset.andThen (k.pulse .shiftClock)).andThen hnext

theorem Respected.sendBits (k : Respected R)
    (hbit : ∀ {s t}, R s t → maskedBit s.dsr s.mask = maskedBit t.dsr t.mask)
    (hnext : ∀ {s t}, R s t → R s.nextBit t.nextBit) (n : Nat) {s t : State} (h : R s t) :
    (s.sendBits n).Alike R (t.sendBits n) := by
  induction n generalizing s t with
  | zero => exact h
  | succ n ih => exact (k.sendBit hbit hnext h).andThen ih

/-! ### CONSTRUCT's parts (40_construct_capacity R120 to R124) -/

theorem Respected.acquire (k : Respected R) (hcount : ∀ {s t}, R s t → R s.countPin t.countPin) (ps : List Nat)
    {s t : State} (h : R s t) : (s.acquire ps).Alike R (t.acquire ps) := by
  induction ps generalizing s t with
  | nil => exact h
  | cons p ps ih => exact (k.issue h (.cfg p)).andThen (fun h' => ih (hcount h'))

/-- Related states with the same `ACQ` roll back alike: the same pins are released, the same log event follows. -/
theorem Respected.rollback (k : Respected R) (hacq : ∀ {s t}, R s t → s.acq = t.acq)
    (henter : ∀ {s t} st, R s t → R (s.enter st) (t.enter st)) {s t : State} (h : R s t) :
    s.rollback.Alike R t.rollback := by
  have hlog : ∀ {u v}, R u v → Progress.Alike R (if u.acq = 0 then .ok u else u.emit (.log .rollback))
      (if v.acq = 0 then .ok v else v.emit (.log .rollback)) := by
    intro u v huv
    rw [hacq huv]
    split
    · exact huv
    · exact k.emit huv _
  rw [State.rollback, State.rollback, k.pin h, hacq h]
  exact (k.releaseIgnoring _ h).andThen (fun huv => (hlog huv).andThen (henter .failed))

theorem Respected.concludeConstruct (k : Respected R) (hacq : ∀ {s t}, R s t → s.acq = t.acq)
    (henter : ∀ {s t} st, R s t → R (s.enter st) (t.enter st)) {p q : Progress} (h : p.Alike R q) :
    StepResult.Alike R p.concludeConstruct q.concludeConstruct := by
  match p, q, h with
  | .ok _, .ok _, h => exact k.conclude (p := .ok _) (q := .ok _) (henter .ready h) .ok
  | .failed s, .failed t, h =>
    rw [Progress.concludeConstruct, Progress.concludeConstruct, hacq h]
    exact k.conclude (k.rollback hacq henter h) _
  | .abandoned _, .abandoned _, h => exact k.conclude (p := .abandoned _) (q := .abandoned _) h .ok
  | .hung, .hung, h => exact k.conclude (p := .hung) (q := .hung) h .ok

/-! ### The commands -/

theorem Respected.execClear (k : Respected R) (hst : ∀ {s t}, R s t → s.st = t.st) {s t : State} (h : R s t) :
    StepResult.Alike R (execClear s) (execClear t) := by
  rw [Machine.execClear, Machine.execClear, hst h]
  split
  · exact k.raise h _
  · exact k.conclude (k.clearSeq h) _

theorem Respected.execCapacity (k : Respected R) (hst : ∀ {s t}, R s t → s.st = t.st)
    (hcap : ∀ {s t}, R s t → s.cap = t.cap) {s t : State} (h : R s t) :
    StepResult.Alike R (execCapacity s) (execCapacity t) := by
  rw [Machine.execCapacity, Machine.execCapacity, hst h, hcap h]
  split
  · exact k.raise h _
  · exact k.conclude (p := .ok s) (q := .ok t) h _

/-- The four best-effort steps of the teardown address the PinSet alone (43_destroy R170). -/
theorem Respected.teardown (k : Respected R) (henter : ∀ {s t} st, R s t → R (s.enter st) (t.enter st)) {s t : State}
    (h : R s t) : s.teardown.Alike R t.teardown := by
  have hlow : ∀ {u v}, R u v → u.allLow.Alike R v.allLow := fun huv => by
    rw [State.allLow, State.allLow, k.pin huv]; exact k.issue huv _
  have hrelease : ∀ {u v}, R u v → (u.releaseWarning u.pin.toList).Alike R (v.releaseWarning v.pin.toList) :=
    fun huv => by rw [k.pin huv]; exact k.releaseWarning _ huv
  exact ((((k.orWarn (k.clearSeq h)).andThen (fun huv => k.orWarn (k.pulse .latchClock huv))).andThen
    (fun huv => k.orWarn (hlow huv))).andThen hrelease).andThen (henter .released)

theorem Respected.execDestroy (k : Respected R) (hst : ∀ {s t}, R s t → s.st = t.st)
    (henter : ∀ {s t} st, R s t → R (s.enter st) (t.enter st)) {s t : State} (h : R s t) :
    StepResult.Alike R (execDestroy s) (execDestroy t) := by
  rw [Machine.execDestroy, Machine.execDestroy, State.constructed, State.constructed, State.tornDown, State.tornDown,
    hst h]
  split
  · exact k.conclude (k.teardown henter h) _
  · exact k.conclude (p := .ok s) (q := .ok t) h _

end TwoRuns

/-! ## Two states that differ only in the pins and the load -/

theorem State.sameInside_iff {s t : State} :
    s.SameInside t ↔ ∃ space shift out, t = { s with space := space, shift := shift, out := out } :=
  ⟨fun h => ⟨_, _, _, h.symm⟩, fun ⟨_, _, _, h⟩ => h ▸ rfl⟩

/-- An update that neither reads nor writes the pins and the load keeps two states that differ only there so. -/
theorem State.SameInside.map {f : State → State}
    (hf : ∀ s space shift out, f { s with space := space, shift := shift, out := out } =
      { f s with space := space, shift := shift, out := out })
    {s t : State} (h : s.SameInside t) : (f s).SameInside (f t) := by
  obtain ⟨space, shift, out, rfl⟩ := State.sameInside_iff.mp h
  exact State.sameInside_iff.mpr ⟨space, shift, out, hf s space shift out⟩

/-- A value taken without a look at the pins and the load is the same in both. -/
theorem State.SameInside.read {α : Type} {f : State → α}
    (hf : ∀ s space shift out, f { s with space := space, shift := shift, out := out } = f s)
    {s t : State} (h : s.SameInside t) : f s = f t := by
  obtain ⟨space, shift, out, rfl⟩ := State.sameInside_iff.mp h
  exact (hf s space shift out).symm

theorem State.SameInside.symm {s t : State} (h : s.SameInside t) : t.SameInside s := by
  obtain ⟨_, _, _, rfl⟩ := State.sameInside_iff.mp h
  rfl

/-- What a transaction does to the pins and the load stays there (10_state R33). -/
theorem State.SameInside.settled {s t : State} (h : s.SameInside t) (x : Transaction) (a : Answer) :
    (s.settled x a).SameInside (t.settled x a) :=
  ((s.sameInside_settled x a).symm.trans h).trans (t.sameInside_settled x a)

theorem State.SameInside.record {s t : State} (h : s.SameInside t) (e : Event) : (s.record e).SameInside (t.record e) :=
  h.map (f := (·.record e)) (fun _ _ _ _ => rfl)

theorem State.SameInside.dropAnswer {s t : State} (h : s.SameInside t) : s.dropAnswer.SameInside t.dropAnswer :=
  h.map (fun _ _ _ _ => rfl)

theorem State.SameInside.respond {s t : State} (h : s.SameInside t) (r : Response) :
    (s.respond r).SameInside (t.respond r) := by
  refine h.map (f := (·.respond r)) (fun s _ _ _ => ?_)
  simp only [State.respond]
  split <;> rfl

theorem State.SameInside.enter {s t : State} (st : Lifecycle) (h : s.SameInside t) :
    (s.enter st).SameInside (t.enter st) :=
  h.map (f := (·.enter st)) (fun _ _ _ _ => rfl)

theorem State.SameInside.countPin {s t : State} (h : s.SameInside t) : s.countPin.SameInside t.countPin :=
  h.map (fun _ _ _ _ => rfl)

theorem State.SameInside.adopt {s t : State} (h : s.SameInside t) (ps : PinSet) (n : Int) :
    (s.adopt ps n).SameInside (t.adopt ps n) :=
  h.map (f := (·.adopt ps n)) (fun _ _ _ _ => rfl)

theorem State.SameInside.loadShifter {s t : State} (h : s.SameInside t) (data : Nat) :
    (s.loadShifter data).SameInside (t.loadShifter data) :=
  h.map (f := (·.loadShifter data)) (fun _ _ _ _ => rfl)

theorem State.SameInside.nextBit {s t : State} (h : s.SameInside t) : s.nextBit.SameInside t.nextBit :=
  h.map (fun _ _ _ _ => rfl)

theorem State.SameInside.st {s t : State} (h : s.SameInside t) : s.st = t.st := h.read (fun _ _ _ _ => rfl)
theorem State.SameInside.pin {s t : State} (h : s.SameInside t) : s.pin = t.pin := h.read (fun _ _ _ _ => rfl)
theorem State.SameInside.cap {s t : State} (h : s.SameInside t) : s.cap = t.cap := h.read (fun _ _ _ _ => rfl)
theorem State.SameInside.bitcnt {s t : State} (h : s.SameInside t) : s.bitcnt = t.bitcnt := h.read (fun _ _ _ _ => rfl)
theorem State.SameInside.acq {s t : State} (h : s.SameInside t) : s.acq = t.acq := h.read (fun _ _ _ _ => rfl)
theorem State.SameInside.seq {s t : State} (h : s.SameInside t) : s.seq = t.seq := h.read (fun _ _ _ _ => rfl)
theorem State.SameInside.answers {s t : State} (h : s.SameInside t) : s.answers = t.answers :=
  h.read (fun _ _ _ _ => rfl)
theorem State.SameInside.cut {s t : State} (h : s.SameInside t) : s.cut = t.cut := h.read (fun _ _ _ _ => rfl)

theorem State.SameInside.maskedBit {s t : State} (h : s.SameInside t) :
    maskedBit s.dsr s.mask = maskedBit t.dsr t.mask :=
  h.read (f := fun u => Machine.maskedBit u.dsr u.mask) (fun _ _ _ _ => rfl)

/-- No event reads the pins or the load (20_memory R61). -/
theorem State.SameInside.respected : Respected State.SameInside where
  pin := State.SameInside.pin
  seq := State.SameInside.seq
  answers := State.SameInside.answers
  cut := State.SameInside.cut
  granted x h := ((h.settled x .ok).record _).dropAnswer
  denied x es h := ((h.settled x (.err es)).record _).dropAnswer
  dropped h := h.dropAnswer
  recorded e h := h.record e
  responded r h := h.respond r

theorem State.SameInside.execConstruct {s t : State} (h : s.SameInside t)
    (serialIn shiftClock latchClock clearPin : Nat) (numSlaves : Int) :
    StepResult.Alike State.SameInside (execConstruct serialIn shiftClock latchClock clearPin numSlaves s)
      (execConstruct serialIn shiftClock latchClock clearPin numSlaves t) := by
  have k := State.SameInside.respected
  rw [Machine.execConstruct, Machine.execConstruct, h.st]
  split
  · exact k.raise h _
  · split
    · exact k.raise h _
    · exact k.concludeConstruct State.SameInside.acq State.SameInside.enter
        (k.acquire State.SameInside.countPin _ (h.adopt _ _))

theorem State.SameInside.execWrite {s t : State} (h : s.SameInside t) (data : Nat) :
    StepResult.Alike State.SameInside (execWrite data s) (execWrite data t) := by
  have k := State.SameInside.respected
  have hload : ∀ {u v : State}, u.SameInside v →
      Progress.Alike State.SameInside (.ok (u.loadShifter data)) (.ok (v.loadShifter data)) :=
    fun huv => huv.loadShifter data
  have hbits : ∀ {u v : State}, u.SameInside v → (u.sendBits u.bitcnt).Alike State.SameInside (v.sendBits v.bitcnt) :=
    fun huv => by rw [huv.bitcnt]; exact k.sendBits State.SameInside.maskedBit State.SameInside.nextBit _ huv
  rw [Machine.execWrite, Machine.execWrite, h.st, h.cap]
  split
  · exact k.raise h _
  · split
    · exact k.raise h _
    · exact k.conclude ((((k.clearSeq h).andThen hload).andThen hbits).andThen
        (k.pulse .latchClock)) _

/-- Settles O49: every event keeps the relation, so every command does; what a transaction does to the pins and the load
never comes back into a register, a choice or the trace. -/
theorem nothingIsReadBack : Obligations.NothingIsReadBack := by
  intro i s t h
  have k := State.SameInside.respected
  cases i with
  | construct serialIn shiftClock latchClock clearPin numSlaves => exact h.execConstruct _ _ _ _ _
  | capacity => exact k.execCapacity State.SameInside.st State.SameInside.cap h
  | clear => exact k.execClear State.SameInside.st h
  | write data => exact h.execWrite data
  | destroy => exact k.execDestroy State.SameInside.st State.SameInside.enter h

end Sys2Proof.Machine

/-! ## Two states that differ only in the transient registers

WRITE and CONSTRUCT write their transient registers before they read them (10_state section 3), so inside them the
relation is stronger by the registers written: `Respected.reading` adds such an agreement to a relation. -/

namespace Sys2Proof.Machine

section Relations

variable {R Q : State → State → Prop}

theorem Progress.Alike.mono (hRQ : ∀ {s t}, R s t → Q s t) {p q : Progress} (h : p.Alike R q) : p.Alike Q q := by
  match p, q, h with
  | .ok _, .ok _, h => exact hRQ h
  | .failed _, .failed _, h => exact hRQ h
  | .abandoned _, .abandoned _, h => exact hRQ h
  | .hung, .hung, h => exact h

theorem StepResult.Alike.mono (hRQ : ∀ {s t}, R s t → Q s t) {x y : StepResult} (h : StepResult.Alike R x y) :
    StepResult.Alike Q x y := by
  match x, y, h with
  | .next _, .next _, h => exact hRQ h
  | .fault _, .fault _, h => exact h
  | .refused _, .refused _, h => exact h

theorem StepResult.Alike.refl (hR : ∀ s, R s s) (x : StepResult) : StepResult.Alike R x x := by
  match x with
  | .next s => exact hR s
  | .fault _ => exact rfl
  | .refused _ => exact rfl

/-- A respected relation stays so with the agreement on a value that no event changes. -/
theorem Respected.reading {α : Type} (k : Respected R) (f : State → α) (hgranted : ∀ s x, f (s.granted x) = f s)
    (hdenied : ∀ s x es, f (s.denied x es) = f s) (hdropped : ∀ s, f s.dropAnswer = f s)
    (hrecorded : ∀ s e, f (s.record e) = f s) (hresponded : ∀ s r, f (s.respond r) = f s) :
    Respected (fun s t => R s t ∧ f s = f t) where
  pin h := k.pin h.1
  seq h := k.seq h.1
  answers h := k.answers h.1
  cut h := k.cut h.1
  granted x h := ⟨k.granted x h.1, by rw [hgranted, hgranted, h.2]⟩
  denied x es h := ⟨k.denied x es h.1, by rw [hdenied, hdenied, h.2]⟩
  dropped h := ⟨k.dropped h.1, by rw [hdropped, hdropped, h.2]⟩
  recorded e h := ⟨k.recorded e h.1, by rw [hrecorded, hrecorded, h.2]⟩
  responded r h := ⟨k.responded r h.1, by rw [hresponded, hresponded, h.2]⟩

end Relations

theorem State.sameLasting_iff {s t : State} :
    s.SameLasting t ↔ ∃ dsr mask bitcnt acq, t = { s with dsr := dsr, mask := mask, bitcnt := bitcnt, acq := acq } :=
  ⟨fun h => ⟨_, _, _, _, h.symm⟩, fun ⟨_, _, _, _, h⟩ => h ▸ rfl⟩

/-- An update that neither reads nor writes the transient registers keeps two states that differ only there so. -/
theorem State.SameLasting.map {f : State → State}
    (hf : ∀ s dsr mask bitcnt acq, f { s with dsr := dsr, mask := mask, bitcnt := bitcnt, acq := acq } =
      { f s with dsr := dsr, mask := mask, bitcnt := bitcnt, acq := acq })
    {s t : State} (h : s.SameLasting t) : (f s).SameLasting (f t) := by
  obtain ⟨dsr, mask, bitcnt, acq, rfl⟩ := State.sameLasting_iff.mp h
  exact State.sameLasting_iff.mpr ⟨dsr, mask, bitcnt, acq, hf s dsr mask bitcnt acq⟩

/-- An update that writes transient registers only, whatever it writes, keeps two such states so. -/
theorem State.SameLasting.update {f : State → State} (hf : ∀ s : State, s.SameLasting (f s)) {s t : State}
    (h : s.SameLasting t) : (f s).SameLasting (f t) := by
  obtain ⟨_, _, _, _, hs⟩ := State.sameLasting_iff.mp (hf s)
  obtain ⟨_, _, _, _, ht⟩ := State.sameLasting_iff.mp (hf t)
  obtain ⟨_, _, _, _, rfl⟩ := State.sameLasting_iff.mp h
  rw [hs, ht]
  rfl

/-- A value taken without a look at the transient registers is the same in both. -/
theorem State.SameLasting.read {α : Type} {f : State → α}
    (hf : ∀ s dsr mask bitcnt acq, f { s with dsr := dsr, mask := mask, bitcnt := bitcnt, acq := acq } = f s)
    {s t : State} (h : s.SameLasting t) : f s = f t := by
  obtain ⟨dsr, mask, bitcnt, acq, rfl⟩ := State.sameLasting_iff.mp h
  exact (hf s dsr mask bitcnt acq).symm

/-- A transaction does not read the transient registers. -/
theorem State.settled_transient (s : State) (dsr mask bitcnt acq : Nat) (x : Transaction) (a : Answer) :
    ({ s with dsr := dsr, mask := mask, bitcnt := bitcnt, acq := acq } : State).settled x a =
      { s.settled x a with dsr := dsr, mask := mask, bitcnt := bitcnt, acq := acq } := by
  have outside : (s.settled x a).SameOutside
      (({ s with dsr := dsr, mask := mask, bitcnt := bitcnt, acq := acq } : State).settled x a) :=
    State.SameOutside.settled (s := s)
      (t := { s with dsr := dsr, mask := mask, bitcnt := bitcnt, acq := acq }) ⟨rfl, rfl, rfl, rfl, rfl, rfl⟩ x a
  rw [← State.sameInside_settled { s with dsr := dsr, mask := mask, bitcnt := bitcnt, acq := acq } x a,
    ← outside.space, ← outside.shift, ← outside.out, ← State.sameInside_settled s x a]

theorem State.SameLasting.st {s t : State} (h : s.SameLasting t) : s.st = t.st := h.read (fun _ _ _ _ _ => rfl)
theorem State.SameLasting.cap {s t : State} (h : s.SameLasting t) : s.cap = t.cap := h.read (fun _ _ _ _ _ => rfl)

theorem State.SameLasting.enter {s t : State} (st : Lifecycle) (h : s.SameLasting t) :
    (s.enter st).SameLasting (t.enter st) :=
  h.map (f := (·.enter st)) (fun _ _ _ _ _ => rfl)

/-- No event reads a transient register. -/
theorem State.SameLasting.respected : Respected State.SameLasting where
  pin h := h.read (fun _ _ _ _ _ => rfl)
  seq h := h.read (fun _ _ _ _ _ => rfl)
  answers h := h.read (fun _ _ _ _ _ => rfl)
  cut h := h.read (fun _ _ _ _ _ => rfl)
  granted x h := h.map (f := (·.granted x)) (fun s _ _ _ _ => by rw [State.granted, State.settled_transient]; rfl)
  denied x es h := h.map (f := (·.denied x es)) (fun s _ _ _ _ => by rw [State.denied, State.settled_transient]; rfl)
  dropped h := h.map (fun _ _ _ _ _ => rfl)
  recorded e h := h.map (f := (·.record e)) (fun _ _ _ _ _ => rfl)
  responded r h := h.map (f := (·.respond r)) (fun s _ _ _ _ => by simp only [State.respond]; split <;> rfl)

/-- As `State.SameLasting`, and with the same `ACQ`: what relates two runs of CONSTRUCT once `ACQ` is 0
(10_state R31). -/
def State.SameAcquired (s t : State) : Prop := s.SameLasting t ∧ s.acq = t.acq

/-- The registers WRITE shifts with (10_state R28, R29, R31). -/
def State.shifter (s : State) : Nat × Nat × Nat := (s.dsr, s.mask, s.bitcnt)

/-- As `State.SameLasting`, and with the same shifter: what relates two runs of WRITE once the shifter is loaded. -/
def State.SameShifter (s t : State) : Prop := s.SameLasting t ∧ s.shifter = t.shifter

theorem State.SameAcquired.respected : Respected State.SameAcquired :=
  State.SameLasting.respected.reading State.acq (fun _ _ => by simp) (fun _ _ _ => by simp) (fun _ => rfl)
    (fun _ _ => rfl) (fun _ _ => by simp)

theorem State.SameAcquired.countPin {s t : State} (h : s.SameAcquired t) : s.countPin.SameAcquired t.countPin :=
  ⟨h.1.update (f := State.countPin) (fun _ => rfl), congrArg (· + 1) h.2⟩

theorem State.SameAcquired.enter {s t : State} (st : Lifecycle) (h : s.SameAcquired t) :
    (s.enter st).SameAcquired (t.enter st) :=
  ⟨h.1.enter st, h.2⟩

theorem State.SameShifter.respected : Respected State.SameShifter :=
  State.SameLasting.respected.reading State.shifter (fun _ _ => by simp [State.shifter])
    (fun _ _ _ => by simp [State.shifter]) (fun _ => rfl) (fun _ _ => rfl) (fun _ _ => by simp [State.shifter])

theorem State.SameShifter.registers {s t : State} (h : s.SameShifter t) :
    s.dsr = t.dsr ∧ s.mask = t.mask ∧ s.bitcnt = t.bitcnt := by
  simpa [State.shifter] using h.2

theorem State.SameShifter.nextBit {s t : State} (h : s.SameShifter t) : s.nextBit.SameShifter t.nextBit := by
  obtain ⟨hdsr, hmask, hbitcnt⟩ := h.registers
  exact ⟨h.1.update (f := State.nextBit) (fun _ => rfl), by simp [State.shifter, hdsr, hmask, hbitcnt, h.1.cap]⟩

/-- `ACQ` is written before CONSTRUCT reads it. -/
theorem State.SameLasting.adopt {s t : State} (h : s.SameLasting t) (ps : PinSet) (n : Int) :
    (s.adopt ps n).SameAcquired (t.adopt ps n) := by
  obtain ⟨_, _, _, _, rfl⟩ := State.sameLasting_iff.mp h
  exact ⟨rfl, rfl⟩

/-- The shifter is written before WRITE reads it. -/
theorem State.SameLasting.loadShifter {s t : State} (h : s.SameLasting t) (data : Nat) :
    (s.loadShifter data).SameShifter (t.loadShifter data) :=
  ⟨h.update (f := (·.loadShifter data)) (fun _ => rfl), by simp [State.shifter, h.cap]⟩

theorem State.SameLasting.execConstruct {s t : State} (h : s.SameLasting t)
    (serialIn shiftClock latchClock clearPin : Nat) (numSlaves : Int) :
    StepResult.Alike State.SameLasting (execConstruct serialIn shiftClock latchClock clearPin numSlaves s)
      (execConstruct serialIn shiftClock latchClock clearPin numSlaves t) := by
  have k := State.SameAcquired.respected
  rw [Machine.execConstruct, Machine.execConstruct, h.st]
  split
  · exact State.SameLasting.respected.raise h _
  · split
    · exact State.SameLasting.respected.raise h _
    · exact (k.concludeConstruct And.right State.SameAcquired.enter
        (k.acquire State.SameAcquired.countPin _ (h.adopt _ _))).mono And.left

/-- What follows the clear strobe of WRITE: the shifter is loaded, the bits are sent, the latch clock is pulsed. -/
theorem State.SameLasting.sendAll {s t : State} (h : s.SameLasting t) (data : Nat) :
    Progress.Alike State.SameLasting
      (((s.loadShifter data).sendBits (s.loadShifter data).bitcnt).andThen (State.pulse .latchClock))
      (((t.loadShifter data).sendBits (t.loadShifter data).bitcnt).andThen (State.pulse .latchClock)) := by
  have k := State.SameShifter.respected
  have hbit : ∀ {u v : State}, u.SameShifter v → maskedBit u.dsr u.mask = maskedBit v.dsr v.mask := fun huv => by
    obtain ⟨hdsr, hmask, -⟩ := huv.registers
    rw [hdsr, hmask]
  have hload := h.loadShifter data
  obtain ⟨-, -, hbitcnt⟩ := hload.registers
  rw [hbitcnt]
  exact ((k.sendBits hbit State.SameShifter.nextBit _ hload).andThen (k.pulse .latchClock)).mono And.left

theorem State.SameLasting.execWrite {s t : State} (h : s.SameLasting t) (data : Nat) :
    StepResult.Alike State.SameLasting (execWrite data s) (execWrite data t) := by
  have k := State.SameLasting.respected
  rw [Machine.execWrite, Machine.execWrite, h.st, h.cap]
  split
  · exact k.raise h _
  · split
    · exact k.raise h _
    · simp only [Progress.andThen_assoc, Progress.ok_andThen]
      exact k.conclude ((k.clearSeq h).andThen (fun huv => huv.sendAll data)) _

/-- Settles O50: no event reads a transient register, and each of the two commands that read one has written it before,
so that from there on the two runs agree on it as well. -/
theorem transientRegistersUnread : Obligations.TransientRegistersUnread := by
  intro i s t h
  have k := State.SameLasting.respected
  cases i with
  | construct serialIn shiftClock latchClock clearPin numSlaves => exact h.execConstruct _ _ _ _ _
  | capacity => exact k.execCapacity State.SameLasting.st State.SameLasting.cap h
  | clear => exact k.execClear State.SameLasting.st h
  | write data => exact h.execWrite data
  | destroy => exact k.execDestroy State.SameLasting.st State.SameLasting.enter h

end Sys2Proof.Machine

/-! ## Which commands do anything, and what a step can be

Outside the one state that serves it a command only answers (60_exceptions R207, 43_destroy R172); a step is idle, a
reset, a command, or a command and the reset scheduled into it. -/

namespace Sys2Proof.Machine

/-- The state serves the command: CONSTRUCT in `Uninitialized`, every other in `Ready` (the table of 10_state R25). -/
def Lifecycle.serves (st : Lifecycle) : Instr → Bool
  | .construct _ _ _ _ _ => st = .uninitialized
  | .capacity | .clear | .write _ | .destroy => st = .ready

/-- The response of a command where its state does not serve it (43_destroy R172, 60_exceptions R207). -/
def declined : Instr → Response
  | .destroy => .ok
  | .construct _ _ _ _ _ | .capacity | .clear | .write _ => .stateError

theorem exec_of_not_serves {i : Instr} {s : State} (h : s.st.serves i = false) :
    exec i s = .next (s.respond (declined i)) := by
  cases i with
  | destroy =>
    have hst : s.st ≠ .ready := by simpa [Lifecycle.serves] using h
    simp [exec, execDestroy, State.constructed, State.tornDown, hst, Progress.conclude, declined]
  | construct | capacity | clear | write =>
    simp_all [exec, execConstruct, execCapacity, execClear, execWrite, Lifecycle.serves, State.raise, declined]

theorem Lifecycle.serves_terminal {st : Lifecycle} (h : st = .failed ∨ st = .released) (i : Instr) :
    st.serves i = false := by
  rcases h with rfl | rfl <;> cases i <;> rfl

theorem execCapacity_of_ready {s : State} (h : s.st = .ready) :
    execCapacity s = .next (s.respond (.okValue s.cap)) := by
  simp [execCapacity, h, Progress.conclude]

/-! ### The step -/

theorem runFrame_cases {frame : List Byte} {s t : State} (h : runFrame frame s = .next t) :
    (∃ i, exec i (s.begin s.cut) = .next t) ∨ t = s.respond .illegalCommand := by
  unfold runFrame at h
  split at h
  · exact .inl ⟨_, h⟩
  · cases h; exact .inr rfl

/-- Everything a step that answers a next state can be. -/
theorem step_cases {s t : State} (h : step s = .next t) :
    t = s ∨
    (∃ rest, s.inbox = .reset :: rest ∧ t = State.hardwareReset { s with inbox := rest }) ∨
    (∃ frame rest, s.inbox = .submit frame none :: rest ∧
      runFrame frame { s with inbox := rest, cut := none } = .next t) ∨
    (∃ frame n rest u, s.inbox = .submit frame (some n) :: rest ∧
      runFrame frame (State.begin { s with inbox := rest } (some n)) = .next u ∧ t = u.hardwareReset) := by
  unfold step State.fetch at h
  match hin : s.inbox with
  | [] => simp only [hin] at h; cases h; exact .inl rfl
  | .reset :: rest => simp only [hin] at h; cases h; exact .inr (.inl ⟨rest, rfl, rfl⟩)
  | .submit frame none :: rest => simp only [hin] at h; exact .inr (.inr (.inl ⟨frame, rest, rfl, h⟩))
  | .submit frame (some n) :: rest =>
    simp only [hin] at h
    generalize hr : runFrame frame (State.begin { s with inbox := rest } (some n)) = r at h
    cases r with
    | next u => cases h; exact .inr (.inr (.inr ⟨frame, n, rest, u, rfl, hr, rfl⟩))
    | fault => cases h
    | refused => cases h

/-- Settles O43: `Failed` and `Released` serve no command, so a command there only answers; of the steps, those that end
in a reset leave them. -/
theorem terminalStates : Obligations.TerminalStates := by
  have command : ∀ (i : Instr) (s t : State), s.st = .failed ∨ s.st = .released → exec i s = .next t → t.st = s.st := by
    intro i s t hs h
    cases (exec_of_not_serves (Lifecycle.serves_terminal hs i)).symm.trans h
    exact State.respond_st s _
  refine ⟨command, fun s t hs h => ?_⟩
  rcases step_cases h with rfl | ⟨rest, hin, rfl⟩ | ⟨frame, rest, -, hr⟩ | ⟨frame, n, rest, u, hin, -, rfl⟩
  · exact .inl rfl
  · exact .inr ⟨rfl, rest, .inl hin⟩
  · rcases runFrame_cases hr with ⟨i, hi⟩ | rfl
    · exact .inl (command i (State.begin { s with inbox := rest, cut := none } none) t hs hi)
    · exact .inl (State.respond_st _ _)
  · exact .inr ⟨rfl, rest, .inr ⟨frame, n, hin⟩⟩

/-! ## What every command keeps -/

/-- `P` is kept by every event, by the response, and by every register a command writes but those CONSTRUCT adopts. -/
structure Lasting (P : State → Prop) : Prop extends Keeps P (fun _ => True) where
  responded : ∀ s r, P s → P (s.respond r)
  entered : ∀ s st, P s → P (s.enter st)
  counted : ∀ s, P s → P s.countPin
  loaded : ∀ s data, P s → P (s.loadShifter data)
  shifted : ∀ s, P s → P s.nextBit

/-- A command keeps what lasts, CONSTRUCT what lasts and holds with its operands adopted. -/
theorem Lasting.exec {P : State → Prop} (k : Lasting P) {i : Instr} {s t : State} (hs : P s)
    (hadopt : ∀ p0 p1 p2 p3 n, i = .construct p0 p1 p2 p3 n →
      P (s.adopt { serialIn := p0, shiftClock := p1, latchClock := p2, clear := p3 } n))
    (h : Machine.exec i s = .next t) : P t := by
  cases i with
  | construct p0 p1 p2 p3 n =>
    rcases k.toKeeps.execConstruct (ps := { serialIn := p0, shiftClock := p1, latchClock := p2, clear := p3 })
      (fun _ _ _ _ => trivial) k.responded k.counted k.entered (fun _ _ => trivial) (hadopt p0 p1 p2 p3 n rfl) h
      with ⟨r, rfl⟩ | ht
    · exact k.responded s r hs
    · exact ht
  | capacity => exact execCapacity_keeps k.responded hs h
  | clear => exact k.toKeeps.execClear k.responded (fun _ => trivial) hs h
  | write data => exact k.toKeeps.execWrite (fun _ _ _ _ => trivial) k.responded k.loaded k.shifted hs h
  | destroy =>
    exact k.toKeeps.execDestroy (fun _ _ _ _ => trivial) (fun _ _ => trivial) (fun _ _ _ _ => trivial) k.responded
      (fun s => k.entered s _) hs h

/-- `t` has the persistent registers of `s` (10_state R20). -/
def State.SamePersistent (s t : State) : Prop := t.pin = s.pin ∧ t.ns = s.ns ∧ t.cap = s.cap

theorem State.samePersistent_lasting (s : State) : Lasting s.SamePersistent where
  granted _ _ _ h := by simpa [State.SamePersistent] using h
  denied _ _ _ _ h := by simpa [State.SamePersistent] using h
  dropped _ h := h
  waited _ h := h
  logged _ _ h := h
  responded _ _ h := by simpa [State.SamePersistent] using h
  entered _ _ h := h
  counted _ h := h
  loaded _ _ h := h
  shifted _ h := h

/-- Settles O44: CONSTRUCT outside `Uninitialized` only answers, and the other commands write none of the three. -/
theorem persistentRegistersFixed : Obligations.PersistentRegistersFixed := by
  intro i s t h hi
  by_cases hs : s.st.serves i = false
  · cases (exec_of_not_serves hs).symm.trans h
    simp
  · refine s.samePersistent_lasting.exec ⟨rfl, rfl, rfl⟩ (fun p0 p1 p2 p3 n hc => ?_) h
    subst hc
    rcases hi with hi | hi
    · exact absurd rfl (hi p0 p1 p2 p3 n)
    · exact absurd (by simpa [Lifecycle.serves] using hi) hs

/-- The pin space stays canonical. -/
theorem exec_wf {i : Instr} {s t : State} (hs : s.space.wf) (h : exec i s = .next t) : t.space.wf :=
  Lasting.exec (P := fun u => u.space.wf)
    { Keeps.wf with
      responded := fun u r hu => by simpa using hu
      entered := fun _ _ hu => hu
      counted := fun _ hu => hu
      loaded := fun _ _ hu => hu
      shifted := fun _ hu => hu }
    hs (fun _ _ _ _ _ _ => hs) h

/-! ### The frame of CONSTRUCT -/

/-- What a CONSTRUCT on the pins `ps` may have made of `s` so far (40_construct_capacity R127; 20_memory R54;
70_reset_and_hazards R252). -/
structure State.ConstructedFrom (ps : PinSet) (s t : State) : Prop where
  pin : t.pin = ps
  shift : t.shift = s.shift ∨ t.shift = some 0
  out : t.out = s.out
  registers : t.dsr = s.dsr ∧ t.mask = s.mask ∧ t.bitcnt = s.bitcnt ∧ t.inbox = s.inbox ∧ t.cut = s.cut
  others : ∀ p, p ∉ ps.toList → t.owned p = s.owned p ∧ t.level p = s.level p

/-- The transactions of a CONSTRUCT on the pins `ps` (40_construct_capacity R120, R124). -/
def Transaction.inConstruct (ps : PinSet) (x : Transaction) : Prop := ∃ p ∈ ps.toList, x = .cfg p ∨ x = .rel p

theorem State.settled_inConstruct_load {ps : PinSet} {x : Transaction} (hx : x.inConstruct ps) (s : State)
    (a : Answer) :
    (s.settled x a).out = s.out ∧ ((s.settled x a).shift = s.shift ∨ (s.settled x a).shift = some 0) := by
  obtain ⟨p, -, rfl | rfl⟩ := hx
  · obtain ⟨hout, hshift⟩ := s.settled_cfg_load p a
    exact ⟨hout, hshift.imp_right And.right⟩
  · obtain ⟨hshift, hout⟩ := s.settled_rel_load p a
    exact ⟨hout, .inl hshift⟩

theorem Transaction.inConstruct.pins_subset {ps : PinSet} {x : Transaction} (hx : x.inConstruct ps) :
    x.pins ⊆ ps.toList := by
  obtain ⟨p, hp, rfl | rfl⟩ := hx <;> simpa [Transaction.pins] using hp

theorem State.ConstructedFrom.settled {ps : PinSet} {s u : State} (h : State.ConstructedFrom ps s u) {x : Transaction}
    (hx : x.inConstruct ps) (a : Answer) : State.ConstructedFrom ps s (u.settled x a) where
  pin := by simpa using h.pin
  shift := by
    rcases (u.settled_inConstruct_load hx a).2 with hu | hu
    · rw [hu]; exact h.shift
    · exact .inr hu
  out := (u.settled_inConstruct_load hx a).1.trans h.out
  registers := by simpa using h.registers
  others p hp := by
    obtain ⟨howned, hlevel⟩ := u.settled_other x a p (fun hm => hp (hx.pins_subset hm))
    rw [howned, hlevel]
    exact h.others p hp

theorem State.ConstructedFrom.respond {ps : PinSet} {s u : State} (h : State.ConstructedFrom ps s u) (r : Response) :
    State.ConstructedFrom ps s (u.respond r) where
  pin := by simpa using h.pin
  shift := by simpa using h.shift
  out := by simpa using h.out
  registers := by simpa using h.registers
  others := by simpa using h.others

theorem State.constructedFrom_keeps (ps : PinSet) (s : State) :
    Keeps (State.ConstructedFrom ps s) (Transaction.inConstruct ps) where
  granted _ _ hx h := { h.settled hx .ok with }
  denied _ _ es hx h := { h.settled hx (.err es) with }
  dropped _ h := { h with }
  waited _ h := { h with }
  logged _ _ h := { h with }

/-- Settles O16: no `Cfg` and no `Rel` of an operand breaks the frame, and a rejected CONSTRUCT only answers. -/
theorem constructFrame : Obligations.ConstructFrame := by
  intro p0 p1 p2 p3 ns s t h
  have adopted : State.ConstructedFrom ⟨p0, p1, p2, p3⟩ s (s.adopt ⟨p0, p1, p2, p3⟩ ns) :=
    ⟨rfl, .inl rfl, rfl, ⟨rfl, rfl, rfl, rfl, rfl⟩, fun _ _ => ⟨rfl, rfl⟩⟩
  rcases (State.constructedFrom_keeps ⟨p0, p1, p2, p3⟩ s).execConstruct (fun u hu p hp => ⟨p, hu.pin ▸ hp, .inr rfl⟩)
    (fun _ r hu => hu.respond r) (fun _ hu => { hu with }) (fun _ _ hu => { hu with }) (fun p hp => ⟨p, hp, .inl rfl⟩) adopted h
    with ⟨r, rfl⟩ | ht
  · simp
  · obtain ⟨-, hshift, hout, ⟨hdsr, hmask, hbitcnt, hinbox, hcut⟩, hothers⟩ := ht
    exact ⟨hshift, hout, hdsr, hmask, hbitcnt, hinbox, hcut, hothers⟩

/-! ## Power-up, and the registers not yet written -/

/-- Settles O8, from the fields of `State.reset`: an empty pin space reads as fresh cells. -/
theorem powerUpState : Obligations.PowerUpState :=
  ⟨rfl, rfl, rfl, rfl, rfl, fun _ => ⟨rfl, rfl⟩⟩

/-- Settles O52: the pin space is empty, and of the rest nothing is claimed in `Uninitialized`. -/
theorem invariantAtReset : Obligations.InvariantAtReset where
  canonical := State.reset_wf
  capacity h := absurd rfl h
  owned := nofun
  shiftClock := nofun
  latchClock := nofun
  clear := nofun

theorem State.sameWritten_refl (s : State) : s.SameWritten s := ⟨rfl, fun _ => rfl⟩

theorem State.SameWritten.st {s t : State} (h : s.SameWritten t) : s.st = t.st := by
  obtain ⟨h, -⟩ := h
  rw [← h]

theorem State.SameWritten.respond {s t : State} (h : s.SameWritten t) (r : Response) :
    (s.respond r).SameWritten (t.respond r) := by
  obtain ⟨h, hready⟩ := h
  refine ⟨?_, fun hr => by rw [hready (by simpa using hr)]⟩
  rw [← h, State.respond, State.respond]
  split <;> rfl

/-- CONSTRUCT writes the three registers before its first event. -/
theorem State.SameWritten.adopt {s t : State} (h : s.SameWritten t) (ps : PinSet) (n : Int) :
    s.adopt ps n = t.adopt ps n := by
  obtain ⟨h, -⟩ := h
  rw [← h]
  rfl

theorem State.SameWritten.execConstruct {s t : State} (h : s.SameWritten t)
    (serialIn shiftClock latchClock clearPin : Nat) (numSlaves : Int) :
    StepResult.Alike State.SameWritten (execConstruct serialIn shiftClock latchClock clearPin numSlaves s)
      (execConstruct serialIn shiftClock latchClock clearPin numSlaves t) := by
  rw [Machine.execConstruct, Machine.execConstruct, h.st]
  split
  · exact h.respond _
  · split
    · exact h.respond _
    · rw [h.adopt]
      exact StepResult.Alike.refl State.sameWritten_refl _

/-- Settles O51: in `Ready` the two states are one; elsewhere CONSTRUCT overwrites the three registers before it uses
them, and the other commands only answer. -/
theorem unwrittenRegistersUnread : Obligations.UnwrittenRegistersUnread := by
  intro i s t h
  by_cases hready : s.st = .ready
  · rw [h.2 hready]
    exact StepResult.Alike.refl State.sameWritten_refl _
  · cases i with
    | construct serialIn shiftClock latchClock clearPin numSlaves => exact h.execConstruct _ _ _ _ _
    | capacity | clear | write | destroy =>
      rw [exec_of_not_serves (by simp [Lifecycle.serves, hready]),
        exec_of_not_serves (by simp [Lifecycle.serves, ← h.st, hready])]
      exact h.respond _

end Sys2Proof.Machine

/-! ## Commands that no reset strikes

With no reset scheduled a run of events is never abandoned: it ends with every transaction granted, or at one that is
denied, or it hangs. `Progress.Ends` says in which states. -/

namespace Sys2Proof.Machine

/-- The run ends in a state of `A`, or at a denied transaction in a state of `B`, or it hangs. -/
def Progress.Ends (A B : State → Prop) : Progress → Prop
  | .ok s => A s
  | .failed s => B s
  | .abandoned _ => False
  | .hung => True

section Ends

variable {A A' B B' : State → Prop}

theorem Progress.Ends.andThen {p : Progress} (h : p.Ends A B) {f : State → Progress}
    (hf : ∀ s, A s → (f s).Ends A' B) : (p.andThen f).Ends A' B := by
  cases p with
  | ok s => exact hf s h
  | failed s => exact h
  | abandoned s => exact h
  | hung => trivial

theorem Progress.Ends.mono {p : Progress} (h : p.Ends A B) (hA : ∀ s, A s → A' s) (hB : ∀ s, B s → B' s) :
    p.Ends A' B' := by
  cases p with
  | ok s => exact hA s h
  | failed s => exact hB s h
  | abandoned s => exact h
  | hung => trivial

/-- A step whose denied transaction is ignored cannot fail (40_construct_capacity R124). -/
theorem Progress.Ends.orIgnore {p : Progress} (h : p.Ends A A) : p.orIgnore.Ends A B := by
  cases p <;> exact h

theorem State.issue_ends {s : State} {x : Transaction} (hc : s.cut = none) (hg : A (s.granted x))
    (hd : ∀ es, B (s.denied x es)) : (s.issue x).Ends A B := by
  rcases State.issue_of_cut_none hc x with h | ⟨es, h⟩ | ⟨h, -⟩ <;> rw [h]
  · exact hg
  · exact hd es
  · trivial

theorem State.emit_ends {s : State} {e : Event} (hc : s.cut = none) (hr : A (s.record e)) : (s.emit e).Ends A B := by
  rw [State.emit_of_cut_none hc]
  exact hr

theorem Progress.Ends.conclude {p : Progress} (hp : p.Ends A B) {r : Response} {t : State}
    (h : p.conclude r = .next t) : (∃ u, A u ∧ t = u.respond r) ∨ ∃ u, B u ∧ t = u.respond .pinFault := by
  rcases Progress.conclude_next h with ⟨u, rfl, rfl⟩ | ⟨u, rfl, rfl⟩ | rfl
  · exact .inl ⟨u, hp, rfl⟩
  · exact .inr ⟨u, hp, rfl⟩
  · exact hp.elim

end Ends

section Uncut

variable {P : State → Prop}

/-- `P` is kept by every event and holds of states with no reset scheduled only. -/
structure KeepsUncut (P : State → Prop) : Prop extends Keeps P (fun _ => True) where
  cut : ∀ s, P s → s.cut = none

/-! ### The shared operations -/

theorem KeepsUncut.issue (k : KeepsUncut P) {s : State} (hs : P s) (x : Transaction) : (s.issue x).Ends P P :=
  State.issue_ends (k.cut s hs) (k.granted s x trivial hs) (fun es => k.denied s x es trivial hs)

theorem KeepsUncut.perform (k : KeepsUncut P) (as : List Act) {s : State} (hs : P s) : (s.perform as).Ends P P := by
  induction as generalizing s with
  | nil => exact hs
  | cons a as ih =>
    refine Progress.Ends.andThen ?_ (fun u hu => ih hu)
    cases a with
    | port x => exact k.issue hs x
    | wait => exact State.emit_ends (k.cut s hs) (k.waited s hs)

/-- A best-effort step cannot fail (43_destroy R174). -/
theorem KeepsUncut.orWarn (k : KeepsUncut P) {B : State → Prop} {p : Progress} (hp : p.Ends P P) :
    p.orWarn.Ends P B := by
  cases p with
  | ok s => exact hp
  | failed s => exact State.emit_ends (k.cut s hp) (k.logged s _ hp)
  | abandoned s => exact hp
  | hung => trivial

/-! ### CONSTRUCT -/

/-- Pin `p` is an output that nothing has driven yet (20_memory R52, R53). -/
def State.Configured (s : State) (p : Nat) : Prop := s.owned p = some true ∧ s.level p = none

theorem State.configured_granted_cfg {s : State} {p q : Nat} (h : q = p ∨ s.Configured q) :
    (s.granted (.cfg p)).Configured q := by
  simp only [State.Configured, State.granted_owned, State.granted_level, State.settled, State.comeUp_owned,
    State.comeUp_level, State.owned_setOwned, State.level_setOwned] at h ⊢
  by_cases hq : q = p
  · simp [hq]
  · simpa [hq] using h

/-- An acquisition ends with every pin configured, or at a denied `Cfg` with fewer pins acquired than asked for. -/
theorem KeepsUncut.acquire (k : KeepsUncut P) (hcount : ∀ s, P s → P s.countPin) (ps : List Nat) {s : State}
    (hs : P s) : (s.acquire ps).Ends (fun u => P u ∧ ∀ q, q ∈ ps ∨ s.Configured q → u.Configured q)
      (fun u => P u ∧ u.acq < s.acq + ps.length) := by
  induction ps generalizing s with
  | nil => exact ⟨hs, fun q hq => by simpa using hq⟩
  | cons p ps ih =>
    refine Progress.Ends.andThen
      (A := fun u => P u ∧ u.acq = s.acq ∧ ∀ q, q = p ∨ s.Configured q → u.Configured q) ?_ ?_
    · exact State.issue_ends (k.cut s hs)
        ⟨k.granted s _ trivial hs, State.granted_acq s _, fun q => State.configured_granted_cfg⟩
        (fun es => ⟨k.denied s _ es trivial hs, by simp⟩)
    · rintro u ⟨hu, hacq, hconf⟩
      refine (ih (hcount u hu)).mono (fun v ⟨hv, hall⟩ => ⟨hv, fun q hq => hall q ?_⟩) (fun v ⟨hv, hlt⟩ => ⟨hv, ?_⟩)
      · rw [List.mem_cons, or_right_comm, or_comm] at hq
        exact hq.imp_right (hconf q)
      · rw [State.countPin_acq, hacq] at hlt
        rw [List.length_cons]
        omega

theorem KeepsUncut.releaseIgnoring (k : KeepsUncut P) {B : State → Prop} (ps : List Nat) {s : State} (hs : P s) :
    (s.releaseIgnoring ps).Ends P B := by
  induction ps generalizing s with
  | nil => exact hs
  | cons p ps ih => exact (k.issue hs _).orIgnore.andThen (fun u hu => ih hu)

/-- A rollback cannot fail, and enters `Failed` last (40_construct_capacity R123, R124). -/
theorem KeepsUncut.rollback (k : KeepsUncut P) {s : State} (hs : P s) :
    s.rollback.Ends (fun v => ∃ u, P u ∧ v = u.enter .failed) (fun _ => False) := by
  refine (k.releaseIgnoring _ hs).andThen (fun u hu => ?_)
  refine Progress.Ends.andThen (A := P) ?_ (fun v hv => ⟨v, hv, rfl⟩)
  split
  · exact hu
  · exact State.emit_ends (k.cut u hu) (k.logged u _ hu)

/-- A CONSTRUCT in `Uninitialized` is rejected, or ends `Ready` with its pins configured, or `Failed` after fewer than
four (40_construct_capacity R121 to R123). -/
theorem KeepsUncut.execConstruct (k : KeepsUncut P) (hcount : ∀ s, P s → P s.countPin) {ps : PinSet} {n : Int}
    {s t : State} (hst : s.st = .uninitialized) (hs : P (s.adopt ps n))
    (h : Machine.execConstruct ps.serialIn ps.shiftClock ps.latchClock ps.clear n s = .next t) :
    t = s.respond .invalidArgument ∨
    (∃ u, P u ∧ (∀ p ∈ ps.toList, u.Configured p) ∧ t = (u.enter .ready).respond .ok) ∨
    (∃ u i, P u ∧ i < 4 ∧ t = (u.enter .failed).respond (.pinSetupFailed i)) := by
  rw [Machine.execConstruct, if_neg (by simp [hst])] at h
  split at h
  · cases h; exact .inl rfl
  · right
    have ha := k.acquire hcount ps.toList hs
    change ((s.adopt ps n).acquire ps.toList).concludeConstruct = .next t at h
    generalize (s.adopt ps n).acquire ps.toList = pr at h ha
    cases pr with
    | ok u => cases h; exact .inl ⟨u, ha.1, fun p hp => ha.2 p (.inl hp), rfl⟩
    | failed u =>
      obtain ⟨hu, hlt⟩ := ha
      rcases (k.rollback hu).conclude h with ⟨_, ⟨v, hv, rfl⟩, rfl⟩ | ⟨_, hv, -⟩
      · exact .inr ⟨v, u.acq, hv, by simpa [PinSet.toList] using hlt, rfl⟩
      · exact hv.elim
    | abandoned u => exact ha.elim
    | hung => cases h

/-! ### DESTROY -/

theorem KeepsUncut.releaseWarning (k : KeepsUncut P) {B : State → Prop} (ps : List Nat) {s : State} (hs : P s) :
    (s.releaseWarning ps).Ends P B := by
  induction ps generalizing s with
  | nil => exact hs
  | cons p ps ih => exact (k.orWarn (k.issue hs _)).andThen (fun u hu => ih hu)

/-- A DESTROY in `Ready` answers `OK`, and enters `Released` last (43_destroy R174, R175). -/
theorem KeepsUncut.execDestroy (k : KeepsUncut P) {s t : State} (hst : s.st = .ready) (hs : P s)
    (h : Machine.execDestroy s = .next t) : ∃ u, P u ∧ t = (u.enter .released).respond .ok := by
  have hteardown : s.teardown.Ends (fun v => ∃ u, P u ∧ v = u.enter .released) (fun _ => False) :=
    ((((k.orWarn (k.perform (clearActs s.pin.clear) hs)).andThen
      (fun u hu => k.orWarn (k.perform (pulseActs (u.pin.at .latchClock)) hu))).andThen
      (fun u hu => k.orWarn (k.issue hu (.setM u.pin.toList .low)))).andThen
      (fun u hu => k.releaseWarning u.pin.toList hu)).andThen (fun u hu => ⟨u, hu, rfl⟩)
  rw [Machine.execDestroy, if_pos (by simp [State.constructed, State.tornDown, hst])] at h
  rcases hteardown.conclude h with ⟨_, ⟨u, hu, rfl⟩, rfl⟩ | ⟨_, hv, -⟩
  · exact ⟨u, hu, rfl⟩
  · exact hv.elim

/-! ### CLEAR and WRITE -/

/-- `P` is kept by each strobe and each bit of a WRITE as a whole, though maybe not by the events in it. -/
structure KeepsStrobes (P : State → Prop) : Prop where
  clear : ∀ s, P s → s.clearSeq.Ends P P
  latch : ∀ s, P s → (State.pulse .latchClock s).Ends P P
  loaded : ∀ s data, P s → P (s.loadShifter data)
  bit : ∀ s, P s → s.sendBit.Ends P P

theorem KeepsStrobes.sendBits (k : KeepsStrobes P) (n : Nat) {s : State} (hs : P s) : (s.sendBits n).Ends P P := by
  induction n generalizing s with
  | zero => exact hs
  | succ n ih => exact (k.bit s hs).andThen (fun u hu => ih hu)

theorem KeepsStrobes.execClear (k : KeepsStrobes P) {s t : State} (hst : s.st = .ready) (hs : P s)
    (h : Machine.execClear s = .next t) : ∃ u r, P u ∧ (r = .ok ∨ r = .pinFault) ∧ t = u.respond r := by
  rw [Machine.execClear, if_neg (by simp [hst])] at h
  rcases (k.clear s hs).conclude h with ⟨u, hu, rfl⟩ | ⟨u, hu, rfl⟩
  · exact ⟨u, .ok, hu, .inl rfl, rfl⟩
  · exact ⟨u, .pinFault, hu, .inr rfl, rfl⟩

theorem KeepsStrobes.execWrite (k : KeepsStrobes P) {data : Nat} {s t : State} (hst : s.st = .ready) (hs : P s)
    (h : Machine.execWrite data s = .next t) :
    ∃ u r, P u ∧ (r = .ok ∨ r = .invalidArgument ∨ r = .pinFault) ∧ t = u.respond r := by
  rw [Machine.execWrite, if_neg (by simp [hst])] at h
  split at h
  · cases h; exact ⟨s, _, hs, .inr (.inl rfl), rfl⟩
  · have hload : ∀ u, P u → (Progress.ok (u.loadShifter data)).Ends P P := fun u hu => k.loaded u data hu
    rcases ((((k.clear s hs).andThen hload).andThen (fun u hu => k.sendBits u.bitcnt hu)).andThen k.latch).conclude h
      with ⟨u, hu, rfl⟩ | ⟨u, hu, rfl⟩
    · exact ⟨u, .ok, hu, .inl rfl, rfl⟩
    · exact ⟨u, .pinFault, hu, .inr (.inr rfl), rfl⟩

/-- What every event keeps, every strobe keeps. -/
theorem KeepsUncut.strobes (k : KeepsUncut P) (hload : ∀ s data, P s → P (s.loadShifter data))
    (hnext : ∀ s, P s → P s.nextBit) : KeepsStrobes P where
  clear _ hs := k.perform _ hs
  latch _ hs := k.perform _ hs
  loaded := hload
  bit _ hs := ((k.issue hs _).andThen (fun _ hu => k.perform (pulseActs _) hu)).andThen hnext

end Uncut

/-! ## One response, and the transition of the table -/

/-- `u` is on the way from `s`: no reset is scheduled, events without a response have been added to the trace, and the
lifecycle is at `st`. -/
structure State.Issued (s : State) (st : Lifecycle) (u : State) : Prop where
  cut : u.cut = none
  st : u.st = st
  trace : ∃ es, u.trace = s.trace ++ es ∧ ∀ e ∈ es, e.isResponse = false

theorem State.Issued.refl {s : State} (h : s.cut = none) : s.Issued s.st s := ⟨h, rfl, [], by simp, by simp⟩

theorem State.Issued.append {s u v : State} {st : Lifecycle} {e : Event} (h : s.Issued st u) (hcut : v.cut = u.cut)
    (hst : v.st = u.st) (htrace : v.trace = u.trace ++ [e]) (he : e.isResponse = false) : s.Issued st v := by
  obtain ⟨es, hes, hno⟩ := h.trace
  refine ⟨hcut.trans h.cut, hst.trans h.st, es ++ [e], by rw [htrace, hes, List.append_assoc], ?_⟩
  simpa [or_imp, forall_and] using ⟨hno, he⟩

theorem State.issued_keepsUncut (s : State) (st : Lifecycle) : KeepsUncut (s.Issued st) where
  granted u x _ h := h.append (e := .port x .ok) (by simp) (by simp) (by simp) rfl
  denied u x es _ h := h.append (e := .port x .err) (by simp) (by simp) (by simp) rfl
  dropped _ h := { h with }
  waited _ h := h.append (e := .wait) rfl rfl rfl rfl
  logged _ kind h := h.append (e := .log kind) rfl rfl rfl rfl
  cut _ h := h.cut

theorem State.issued_keepsStrobes (s : State) (st : Lifecycle) : KeepsStrobes (s.Issued st) :=
  (s.issued_keepsUncut st).strobes (fun _ _ h => { h with }) (fun _ h => { h with })

theorem State.Issued.enter {s u : State} {st : Lifecycle} (h : s.Issued st u) (st' : Lifecycle) :
    s.Issued st' (u.enter st') :=
  { h with st := rfl }

/-- The response ends the command. -/
theorem State.Issued.oneResponse {s u : State} {st : Lifecycle} {i : Instr} {r : Response} (h : s.Issued st u)
    (hr : s.st.allows i r) (hst : st = s.st.after i r) :
    ∃ es r', (u.respond r).trace = s.trace ++ es ++ [.respond r'] ∧ (∀ e ∈ es, e.isResponse = false) ∧
      s.st.allows i r' ∧ (u.respond r).st = s.st.after i r' := by
  obtain ⟨es, hes, hno⟩ := h.trace
  refine ⟨es, r, ?_, hno, hr, by rw [State.respond_st, h.st, hst]⟩
  rw [State.respond_trace (by simp [h.cut]), hes]

theorem Lifecycle.allows_declined {st : Lifecycle} {i : Instr} (h : st.serves i = false) :
    st.allows i (declined i) ∧ st = st.after i (declined i) := by
  cases i <;> cases st <;> first | exact ⟨rfl, rfl⟩ | cases h

/-- Settles O42: a command its state does not serve only answers; each of the others issues events without a response up
to the one at its end. -/
theorem oneResponseAndTransition : Obligations.OneResponseAndTransition := by
  intro i s t hcut h
  by_cases hserves : s.st.serves i = false
  · cases (exec_of_not_serves hserves).symm.trans h
    obtain ⟨hallows, hafter⟩ := Lifecycle.allows_declined hserves
    exact (State.Issued.refl hcut).oneResponse hallows hafter
  have hself := State.Issued.refl hcut
  cases i with
  | construct p0 p1 p2 p3 n =>
    have hst : s.st = .uninitialized := by simpa [Lifecycle.serves] using hserves
    rcases (s.issued_keepsUncut s.st).execConstruct (ps := ⟨p0, p1, p2, p3⟩) (fun _ hu => { hu with }) hst
      { hself with } h with rfl | ⟨u, hu, -, rfl⟩ | ⟨u, k, hu, hk, rfl⟩
    · exact hself.oneResponse (by simp [hst, Lifecycle.allows]) (by simp [hst, Lifecycle.after])
    · exact (hu.enter .ready).oneResponse (by simp [hst, Lifecycle.allows]) (by simp [hst, Lifecycle.after])
    · exact (hu.enter .failed).oneResponse (by simp [hst, Lifecycle.allows, hk]) (by simp [hst, Lifecycle.after])
  | capacity =>
    have hst : s.st = .ready := by simpa [Lifecycle.serves] using hserves
    cases (execCapacity_of_ready hst).symm.trans h
    exact hself.oneResponse (by simp [hst, Lifecycle.allows]) (by simp [hst, Lifecycle.after])
  | clear =>
    have hst : s.st = .ready := by simpa [Lifecycle.serves] using hserves
    obtain ⟨u, r, hu, hr, rfl⟩ := (s.issued_keepsStrobes s.st).execClear hst hself h
    exact hu.oneResponse (by simpa [hst, Lifecycle.allows] using hr) (by simp [hst, Lifecycle.after])
  | write data =>
    have hst : s.st = .ready := by simpa [Lifecycle.serves] using hserves
    obtain ⟨u, r, hu, hr, rfl⟩ := (s.issued_keepsStrobes s.st).execWrite hst hself h
    exact hu.oneResponse (by simpa [hst, Lifecycle.allows] using hr) (by simp [hst, Lifecycle.after])
  | destroy =>
    have hst : s.st = .ready := by simpa [Lifecycle.serves] using hserves
    obtain ⟨u, hu, rfl⟩ := (s.issued_keepsUncut s.st).execDestroy hst hself h
    exact (hu.enter .released).oneResponse (by simp [hst, Lifecycle.allows]) (by simp [hst, Lifecycle.after])

end Sys2Proof.Machine

/-! ## The invariant

Inside a strobe the pin it drives may be at a level the invariant forbids; every other pin rests, and where the strobe
ends, or its driven pin loses its level to a denied transaction, that pin rests again (44_pulse R187, R190). -/

namespace Sys2Proof.Machine

/-- The levels the pin of a role may be at between commands: no clock `HIGH`, `clear` not `LOW`. -/
def Role.RestsAt : Role → Option Level → Prop
  | .serialIn, _ => True
  | .shiftClock, l => l ≠ some .high
  | .latchClock, l => l ≠ some .high
  | .clear, l => l ≠ some .low

theorem Role.restsAt_none (r : Role) : r.RestsAt none := by cases r <;> simp [Role.RestsAt]

/-- Inside a command in `Ready` on the pins `ps`: all four are owned, and with four distinct pins each rests, but
for the pin of role `q`. -/
structure State.RestingBut (ps : PinSet) (q : Role) (s : State) : Prop where
  cut : s.cut = none
  pin : s.pin = ps
  owned : ∀ r, s.owned (ps.at r) = some true
  level : ps.distinct = true → ∀ r : Role, r ≠ q → r.RestsAt (s.level (ps.at r))

/-- As `State.RestingBut`, with no pin excepted. -/
structure State.Resting (ps : PinSet) (s : State) : Prop where
  cut : s.cut = none
  pin : s.pin = ps
  owned : ∀ r, s.owned (ps.at r) = some true
  level : ps.distinct = true → ∀ r : Role, r.RestsAt (s.level (ps.at r))

section Resting

variable {ps : PinSet} {q : Role} {s : State}

theorem State.Resting.but (h : s.Resting ps) (q : Role) : s.RestingBut ps q :=
  ⟨h.cut, h.pin, h.owned, fun hd r _ => h.level hd r⟩

theorem State.RestingBut.resting (h : s.RestingBut ps q) (hq : q.RestsAt (s.level (ps.at q))) : s.Resting ps where
  cut := h.cut
  pin := h.pin
  owned := h.owned
  level hd r := by
    by_cases hr : r = q
    · rw [hr]; exact hq
    · exact h.level hd r hr

theorem State.Resting.respond (h : s.Resting ps) (r : Response) : (s.respond r).Resting ps :=
  ⟨by simpa using h.cut, by simpa using h.pin, by simpa using h.owned, by simpa using h.level⟩

/-! ### Strobes -/

/-- A `Set` on the excepted pin, however it is answered, touches no other. -/
theorem State.RestingBut.settled_set (h : s.RestingBut ps q) (l : Level) (a : Answer) :
    (s.settled (.set (ps.at q) l) a).RestingBut ps q where
  cut := by simpa using h.cut
  pin := by simpa using h.pin
  owned r := by cases a <;> simpa [State.settled] using h.owned r
  level hd r hr := by
    have hne : ps.at r ∉ (Transaction.set (ps.at q) l).pins := by
      simpa [Transaction.pins] using fun e => hr (PinSet.at_injective hd e)
    rw [(s.settled_other _ a _ hne).2]
    exact h.level hd r hr

/-- A `Set` on the excepted pin leaves it at the level driven or, denied, without a level, at which it rests. -/
theorem State.RestingBut.set (h : s.RestingBut ps q) (l : Level) :
    (s.issue (.set (ps.at q) l)).Ends (fun u => u.RestingBut ps q ∧ u.level (ps.at q) = some l) (State.Resting ps) := by
  refine State.issue_ends h.cut ⟨{ h.settled_set l .ok with }, by simp [State.granted_level, State.settled]⟩
    (fun es => ?_)
  have hdenied : (s.denied (.set (ps.at q) l) es).RestingBut ps q := { h.settled_set l (.err es) with }
  refine hdenied.resting ?_
  simpa [State.denied_level, State.settled] using q.restsAt_none

/-- A strobe on the excepted pin that ends with a level it rests at leaves all four at rest. -/
theorem State.RestingBut.strobe (h : s.RestingBut ps q) {l : Level} (hl : q.RestsAt (some l)) (as : List Act)
    (hT : ∀ a ∈ as, a = .wait ∨ ∃ l, a = .port (.set (ps.at q) l)) :
    (s.perform (as ++ [.port (.set (ps.at q) l)])).Ends (State.Resting ps) (State.Resting ps) := by
  induction as generalizing s with
  | nil => exact (h.set l).andThen (fun u ⟨hu, hlevel⟩ => hu.resting (hlevel ▸ hl))
  | cons a as ih =>
    refine Progress.Ends.andThen (A := State.RestingBut ps q) ?_
      (fun u hu => ih hu (fun b hb => hT b (List.mem_cons_of_mem a hb)))
    rcases hT a List.mem_cons_self with rfl | ⟨l, rfl⟩
    · exact State.emit_ends h.cut { h with }
    · exact (h.set l).mono (fun _ hu => hu.1) (fun _ hu => hu)

theorem State.Resting.clearSeq (h : s.Resting ps) : s.clearSeq.Ends (State.Resting ps) (State.Resting ps) := by
  have hstrobe := (h.but .clear).strobe (l := .high) (by simp [Role.RestsAt])
    [.port (.set (ps.at .clear) .low), .wait] (by simp)
  rw [State.clearSeq, h.pin]
  exact hstrobe

theorem State.Resting.pulse (h : s.Resting ps) (hq : q.RestsAt (some .low)) :
    (State.pulse q s).Ends (State.Resting ps) (State.Resting ps) := by
  have hstrobe := (h.but q).strobe hq
    [.port (.set (ps.at q) .low), .wait, .port (.set (ps.at q) .high), .wait] (by simp)
  rw [State.pulse, h.pin]
  exact hstrobe

/-- `serial_in` rests at every level. -/
theorem State.Resting.setSerialIn (h : s.Resting ps) (l : Level) :
    (s.issue (.set ps.serialIn l)).Ends (State.Resting ps) (State.Resting ps) :=
  ((h.but .serialIn).set l).mono (fun _ hu => hu.1.resting trivial) (fun _ hu => hu)

theorem State.Resting.keepsStrobes (ps : PinSet) : KeepsStrobes (State.Resting ps) where
  clear _ h := h.clearSeq
  latch _ h := h.pulse (by simp [Role.RestsAt])
  loaded _ _ h := { h with }
  bit s h := by
    have hset := h.setSerialIn (levelOfBit (maskedBit s.dsr s.mask))
    rw [← h.pin] at hset ⊢
    exact (hset.andThen (fun u hu => hu.pulse (by simp [Role.RestsAt]))).andThen (fun u hu => { hu with })

/-! ### Between commands -/

theorem State.Inv.resting (h : s.Inv) (hcut : s.cut = none) (hst : s.st = .ready) : s.Resting s.pin where
  cut := hcut
  pin := rfl
  owned := h.owned hst
  level hd r := by
    cases r with
    | serialIn => trivial
    | shiftClock => exact h.shiftClock hst hd
    | latchClock => exact h.latchClock hst hd
    | clear => exact h.clear hst hd

theorem State.Resting.inv (h : s.Resting ps) (hwf : s.space.wf) (hcap : s.cap = capacityOf s.ns) : s.Inv := by
  obtain ⟨-, rfl, howned, hlevel⟩ := h
  exact ⟨hwf, fun _ => hcap, fun _ => howned, fun _ hd => hlevel hd .shiftClock, fun _ hd => hlevel hd .latchClock,
    fun _ hd => hlevel hd .clear⟩

theorem State.inv_of_not_ready (hst : s.st ≠ .ready) (hwf : s.space.wf)
    (hcap : s.st ≠ .uninitialized → s.cap = capacityOf s.ns) : s.Inv :=
  ⟨hwf, hcap, fun h => absurd h hst, fun h => absurd h hst, fun h => absurd h hst, fun h => absurd h hst⟩

theorem State.Inv.respond (h : s.Inv) (r : Response) : (s.respond r).Inv :=
  ⟨by simpa using h.canonical, by simpa using h.capacity, by simpa using h.owned, by simpa using h.shiftClock,
    by simpa using h.latchClock, by simpa using h.clear⟩

theorem State.inv_hardwareReset (hwf : s.space.wf) : s.hardwareReset.Inv :=
  State.inv_of_not_ready (by simp) hwf (by simp)

/-! ### Commands -/

/-- No reset is scheduled, and the pins and the capacity are those CONSTRUCT adopted (10_state R20 to R23). -/
structure State.Adopted (ps : PinSet) (s : State) : Prop where
  cut : s.cut = none
  pin : s.pin = ps
  capacity : s.cap = capacityOf s.ns

theorem State.adopted_keepsUncut (ps : PinSet) : KeepsUncut (State.Adopted ps) where
  granted _ _ _ h := ⟨by simpa using h.cut, by simpa using h.pin, by simpa using h.capacity⟩
  denied _ _ _ _ h := ⟨by simpa using h.cut, by simpa using h.pin, by simpa using h.capacity⟩
  dropped _ h := { h with }
  waited _ h := { h with }
  logged _ _ h := { h with }
  cut _ h := h.cut

/-- Four fresh outputs rest: they have no level. -/
theorem State.Adopted.resting (h : s.Adopted ps) (hconf : ∀ p ∈ ps.toList, s.Configured p) : s.Resting ps where
  cut := h.cut
  pin := h.pin
  owned r := (hconf _ (ps.at_mem r)).1
  level _ r := by
    rw [(hconf _ (ps.at_mem r)).2]
    exact r.restsAt_none

/-- CONSTRUCT keeps the invariant: rejected it only answers, `Ready` it leaves fresh outputs, `Failed` nothing is asked
of the pins. -/
theorem State.Inv.execConstruct {p0 p1 p2 p3 : Nat} {n : Int} {t : State} (hi : s.Inv) (hcut : s.cut = none)
    (hst : s.st = .uninitialized) (h : exec (.construct p0 p1 p2 p3 n) s = .next t) : t.Inv := by
  have hwf := exec_wf hi.canonical h
  rcases (State.adopted_keepsUncut ⟨p0, p1, p2, p3⟩).execConstruct (fun _ hu => { hu with }) hst ⟨hcut, rfl, rfl⟩ h
    with rfl | ⟨u, hu, hconf, rfl⟩ | ⟨u, i, hu, -, rfl⟩
  · exact hi.respond _
  · have hrest : (u.enter .ready).Resting ⟨p0, p1, p2, p3⟩ := { hu.resting hconf with }
    exact (hrest.respond .ok).inv hwf (by simpa using hu.capacity)
  · exact State.inv_of_not_ready (by simp) hwf (fun _ => by simpa using hu.capacity)

/-- A command that no reset strikes keeps the invariant. -/
theorem State.Inv.exec {i : Instr} {t : State} (hi : s.Inv) (hcut : s.cut = none) (h : exec i s = .next t) : t.Inv := by
  by_cases hserves : s.st.serves i = false
  · cases (exec_of_not_serves hserves).symm.trans h
    exact hi.respond _
  by_cases hst : s.st = .ready
  case neg =>
    cases i with
    | construct => exact hi.execConstruct hcut (by simpa [Lifecycle.serves] using hserves) h
    | capacity | clear | write | destroy => exact absurd (by simpa [Lifecycle.serves] using hst) hserves
  have hwf := exec_wf hi.canonical h
  have hcap : t.cap = capacityOf t.ns := by
    obtain ⟨-, hns, hcap⟩ := persistentRegistersFixed i s t h (.inr (by simp [hst]))
    rw [hcap, hns]
    exact hi.capacity (by simp [hst])
  have hrest := hi.resting hcut hst
  cases i with
  | construct => exact absurd (by simp [Lifecycle.serves, hst]) hserves
  | capacity =>
    cases (execCapacity_of_ready hst).symm.trans h
    exact hi.respond _
  | clear =>
    obtain ⟨u, r, hu, -, rfl⟩ := (State.Resting.keepsStrobes s.pin).execClear hst hrest h
    exact (hu.respond r).inv hwf hcap
  | write data =>
    obtain ⟨u, r, hu, -, rfl⟩ := (State.Resting.keepsStrobes s.pin).execWrite hst hrest h
    exact (hu.respond r).inv hwf hcap
  | destroy =>
    obtain ⟨es, r, -, -, -, hafter⟩ := oneResponseAndTransition .destroy s t hcut h
    exact State.inv_of_not_ready (by simp [hafter, hst, Lifecycle.after]) hwf (fun _ => hcap)

/-! ### Steps -/

theorem runFrame_wf {frame : List Byte} {t : State} (hs : s.space.wf) (h : runFrame frame s = .next t) :
    t.space.wf := by
  rcases runFrame_cases h with ⟨i, hi⟩ | rfl
  · exact exec_wf (s := s.begin s.cut) hs hi
  · simpa using hs

end Resting

/-- Settles O53: a command that no reset strikes keeps the invariant, and after a reset only the canonical pin space is
claimed, which every command keeps. -/
theorem stepKeepsInvariant : Obligations.StepKeepsInvariant := by
  intro s t hi h
  rcases step_cases h with rfl | ⟨rest, -, rfl⟩ | ⟨frame, rest, -, hr⟩ | ⟨frame, n, rest, u, -, hr, rfl⟩
  · exact hi
  · exact State.inv_hardwareReset hi.canonical
  · rcases runFrame_cases hr with ⟨i, h⟩ | rfl
    · have hbegin : (State.begin { s with inbox := rest, cut := none } none).Inv := { hi with }
      exact hbegin.exec rfl h
    · have hidle : State.Inv { s with inbox := rest, cut := none } := { hi with }
      exact hidle.respond _
  · exact State.inv_hardwareReset
      (runFrame_wf (s := State.begin { s with inbox := rest } (some n)) hi.canonical hr)

end Sys2Proof.Machine

/-! ## What one transaction does to the load (20_memory R76, R77) -/

namespace Sys2Proof.Machine

theorem State.eq_granted {s t : State} {x : Transaction} (h : s.issue x = .ok t) : t = s.granted x := by
  rcases s.issue_cases x with ⟨-, hi⟩ | ⟨-, hi⟩ | ⟨_, -, hi⟩ | ⟨-, -, hi⟩ | ⟨-, -, hi⟩ <;> cases hi.symm.trans h
  rfl

theorem State.eq_denied {s t : State} {x : Transaction} (h : s.issue x = .failed t) : ∃ es, t = s.denied x es := by
  rcases s.issue_cases x with ⟨-, hi⟩ | ⟨-, hi⟩ | ⟨es, -, hi⟩ | ⟨-, -, hi⟩ | ⟨-, -, hi⟩ <;> cases hi.symm.trans h
  exact ⟨es, rfl⟩

theorem State.granted_set_shift (s : State) (p : Nat) (l : Level) :
    (s.granted (.set p l)).shift = (s.drive p l).shift := by
  rw [State.granted_shift, State.settled]

theorem State.granted_set_out (s : State) (p : Nat) (l : Level) : (s.granted (.set p l)).out = (s.drive p l).out := by
  rw [State.granted_out, State.settled]

/-- Settles O39: on the pins of a PinSet the order of driving `LOW` does not matter, and `clear` is among them. -/
theorem bulkLowInEveryOrder : Obligations.BulkLowInEveryOrder := by
  intro s ps hd hperm haccepts
  obtain ⟨hissue, -⟩ := State.issue_ok (n := 0) haccepts (.setM ps .low)
  obtain ⟨hout, hshift⟩ := State.drives_low ps hd (fun p hp => hperm.mem_iff.mp hp)
  have hclear : s.pin.clear ∈ ps := hperm.mem_iff.mpr (s.pin.at_mem .clear)
  refine ⟨_, hissue, ?_, hout, fun p hp => ?_⟩
  · rw [if_pos hclear] at hshift
    exact hshift
  · have hlevel := State.drives_level ps .low s p
    rw [if_pos hp] at hlevel
    exact hlevel

/-- Settles O40: a granted or denied transaction leaves the load as it settles, which is one rule per transaction. -/
theorem otherEventsLeaveLoad : Obligations.OtherEventsLeaveLoad := by
  refine ⟨fun s t p h => ?_, fun s t p h => ?_, fun s t l hd h => ?_, fun s t hd h => ?_⟩
  · rcases h with h | h | h
    · obtain ⟨es, rfl⟩ := State.eq_denied h
      exact ⟨rfl, rfl⟩
    · rw [State.eq_granted h, State.granted_shift, State.granted_out]
      exact s.settled_rel_load p .ok
    · obtain ⟨es, rfl⟩ := State.eq_denied h
      rw [State.denied_shift, State.denied_out]
      exact s.settled_rel_load p (.err es)
  · rw [State.eq_granted h, State.granted_shift, State.granted_out]
    exact s.settled_cfg_load p .ok
  · rw [State.eq_granted h, State.granted_set_shift, State.granted_set_out]
    exact State.drive_serialIn hd l
  · rcases h with h | h | h <;> rw [State.eq_granted h, State.granted_set_shift, State.granted_set_out]
    · exact State.drive_shiftClock_low hd
    · exact State.drive_latchClock_low hd
    · exact State.drive_clear_high hd

/-! ## Which pins a command addresses (20_memory R54) -/

/-- From `s` to `u` the trace has grown by items that address pins of `ps` alone, and `ps` is the PinSet of `u`. -/
def State.AddressedOnly (ps : PinSet) (s u : State) : Prop :=
  u.pin = ps ∧ ∃ es, u.trace = s.trace ++ es ∧ ∀ e ∈ es, ∀ p ∈ e.pins, p ∈ ps.toList

theorem Event.pins_port (x : Transaction) (a : Ack) : (Event.port x a).pins = x.pins := by cases x <;> rfl

theorem State.AddressedOnly.refl {ps : PinSet} {s u : State} (hpin : u.pin = ps) (htrace : u.trace = s.trace) :
    s.AddressedOnly ps u :=
  ⟨hpin, [], by simpa using htrace, by simp⟩

theorem State.AddressedOnly.append {ps : PinSet} {s u v : State} (h : s.AddressedOnly ps u) {e : Event}
    (hpin : v.pin = u.pin) (htrace : v.trace = u.trace ++ [e]) (he : ∀ p ∈ e.pins, p ∈ ps.toList) :
    s.AddressedOnly ps v := by
  obtain ⟨hu, es, hes, hin⟩ := h
  refine ⟨hpin.trans hu, es ++ [e], by rw [htrace, hes, List.append_assoc], ?_⟩
  simpa [or_imp, forall_and] using ⟨hin, he⟩

theorem State.AddressedOnly.respond {ps : PinSet} {s u : State} (h : s.AddressedOnly ps u) (r : Response) :
    s.AddressedOnly ps (u.respond r) := by
  unfold State.respond
  split
  · exact h
  · exact h.append (e := .respond r) rfl rfl nofun

theorem State.addressedOnly_keeps (ps : PinSet) (s : State) :
    Keeps (s.AddressedOnly ps) (fun x => ∀ p ∈ x.pins, p ∈ ps.toList) where
  granted u x hx h := h.append (u.granted_pin x) (u.granted_trace x) (by rwa [Event.pins_port])
  denied u x es hx h := h.append (u.denied_pin x es) (u.denied_trace x es) (by rwa [Event.pins_port])
  dropped _ h := h
  waited _ h := h.append (e := .wait) rfl rfl nofun
  logged _ kind h := h.append (e := .log kind) rfl rfl nofun

/-- The pins are those of the PinSet; for CONSTRUCT they are its operands, which it adopts first. -/
theorem exec_addressedOnly {i : Instr} {s t : State} (h : exec i s = .next t) : ∃ ps, s.AddressedOnly ps t := by
  have hself : s.AddressedOnly s.pin s := .refl rfl rfl
  have hset : ∀ u, s.AddressedOnly s.pin u → ∀ r l, ∀ p ∈ (Transaction.set (u.pin.at r) l).pins, p ∈ s.pin.toList :=
    fun u hu r l => List.forall_mem_singleton.mpr (hu.1 ▸ u.pin.at_mem r)
  have hrespond : ∀ ps u r, s.AddressedOnly ps u → s.AddressedOnly ps (u.respond r) := fun _ _ r hu => hu.respond r
  have k := s.addressedOnly_keeps s.pin
  cases i with
  | construct p0 p1 p2 p3 n =>
    rcases (s.addressedOnly_keeps ⟨p0, p1, p2, p3⟩).execConstruct
      (fun u hu p hp => List.forall_mem_singleton.mpr (hu.1 ▸ hp)) (hrespond _)
      (fun _ hu => hu) (fun _ _ hu => hu) (fun p hp => List.forall_mem_singleton.mpr hp) (.refl rfl rfl) h
      with ⟨r, rfl⟩ | ht
    · exact ⟨_, hself.respond r⟩
    · exact ⟨_, ht⟩
  | capacity => exact ⟨_, execCapacity_keeps (hrespond _) hself h⟩
  | clear => exact ⟨_, k.execClear (hrespond _) (hset s hself .clear) hself h⟩
  | write data => exact ⟨_, k.execWrite hset (hrespond _) (fun _ _ hu => hu) (fun _ hu => hu) hself h⟩
  | destroy =>
    exact ⟨_, k.execDestroy hset (fun u hu p hp => hu.1 ▸ hp)
      (fun u hu p hp => List.forall_mem_singleton.mpr (hu.1 ▸ hp)) (hrespond _) (fun _ hu => hu) hself h⟩

/-- Settles O45: every transaction a command issues is on pins of the PinSet, so every item it adds is. -/
theorem onlyThePinSetAddressed : Obligations.OnlyThePinSetAddressed := by
  intro i s t h
  obtain ⟨_, rfl, hes⟩ := exec_addressedOnly h
  exact hes

end Sys2Proof.Machine

/-! ## Commands whose transactions all answer `ok`

`State.perform_ok` runs a fixed event list to its end; here the same for the operations of each command, with the state
it ends in and what it has added to the trace (40_construct_capacity R121, 41_clear R141, 42_write R151, 43_destroy
R171). -/

namespace Sys2Proof.Machine

theorem State.performed_append (as bs : List Act) (s : State) :
    s.performed (as ++ bs) = (s.performed as).performed bs := by
  induction as generalizing s with
  | nil => rfl
  | cons a as ih => cases a <;> exact ih _

theorem State.accepts.enter {s : State} {n : Nat} (h : s.accepts n) (st : Lifecycle) : (s.enter st).accepts n := h

theorem State.accepts.nextBit {s : State} {n : Nat} (h : s.accepts n) : s.nextBit.accepts n := h

theorem State.accepts.loadShifter {s : State} {n : Nat} (h : s.accepts n) (data : Nat) :
    (s.loadShifter data).accepts n := h

theorem State.clearSeq_ok {s : State} {n : Nat} (h : s.accepts (n + 2)) :
    s.clearSeq = .ok (s.performed (clearActs s.pin.clear)) ∧ (s.performed (clearActs s.pin.clear)).accepts n :=
  State.perform_ok (clearActs s.pin.clear) h

theorem State.pulse_ok (r : Role) {s : State} {n : Nat} (h : s.accepts (n + 3)) :
    State.pulse r s = .ok (s.performed (pulseActs (s.pin.at r))) ∧
      (s.performed (pulseActs (s.pin.at r))).accepts n :=
  State.perform_ok (pulseActs (s.pin.at r)) h

/-! ### CONSTRUCT -/

/-- The state after pins have been configured, each `Cfg` answered `ok`. -/
def State.acquired : List Nat → State → State
  | [], s => s
  | p :: ps, s => State.acquired ps (s.granted (.cfg p)).countPin

theorem State.acquire_ok (ps : List Nat) {s : State} {n : Nat} (h : s.accepts (n + ps.length)) :
    s.acquire ps = .ok (s.acquired ps) ∧ (s.acquired ps).accepts n := by
  induction ps generalizing s with
  | nil => exact ⟨rfl, h⟩
  | cons p ps ih =>
    obtain ⟨hissue, hrest⟩ := State.issue_ok (n := n + ps.length) h (.cfg p)
    simpa [State.acquire, hissue, State.acquired] using ih (s := (s.granted (.cfg p)).countPin) hrest

theorem State.acquired_trace (ps : List Nat) (s : State) :
    (s.acquired ps).trace = s.trace ++ ps.map (fun p => .port (.cfg p) .ok) := by
  induction ps generalizing s with
  | nil => simp [State.acquired]
  | cons p ps ih => simp [State.acquired, ih]

theorem execConstruct_ok {ps : PinSet} {n : Int} {s : State} (hst : s.st = .uninitialized) (hn : 0 ≤ n)
    {m : Nat} (h : s.accepts (m + 4)) :
    exec (.construct ps.serialIn ps.shiftClock ps.latchClock ps.clear n) s =
        .next ((((s.adopt ps n).acquired ps.toList).enter .ready).respond .ok) ∧
      (((s.adopt ps n).acquired ps.toList).enter .ready).accepts m := by
  obtain ⟨hacquire, hend⟩ := State.acquire_ok ps.toList (s := s.adopt ps n) h
  have hcount : badSlaveCount n = false := by simpa [badSlaveCount] using hn
  refine ⟨?_, hend.enter .ready⟩
  rw [exec, execConstruct, if_neg (by simp [hst]), hcount, if_neg (by simp), hacquire]
  rfl

/-! ### CLEAR -/

theorem execClear_ok {s : State} (hst : s.st = .ready) {n : Nat} (h : s.accepts (n + 2)) :
    exec .clear s = .next ((s.performed (clearActs s.pin.clear)).respond .ok) ∧
      (s.performed (clearActs s.pin.clear)).accepts n := by
  obtain ⟨hclear, hend⟩ := State.clearSeq_ok h
  refine ⟨?_, hend⟩
  rw [exec, execClear, if_neg (by simp [hst]), hclear]
  rfl

/-! ### WRITE -/

/-- The state after one bit has been sent, its four transactions answered `ok`. -/
def State.sentBit (s : State) : State :=
  ((s.granted (.set s.pin.serialIn (levelOfBit (maskedBit s.dsr s.mask)))).performed
    (pulseActs (s.pin.at .shiftClock))).nextBit

theorem State.sendBit_ok {s : State} {n : Nat} (h : s.accepts (n + 4)) :
    s.sendBit = .ok s.sentBit ∧ s.sentBit.accepts n := by
  obtain ⟨hset, hrest⟩ := State.issue_ok (n := n + 3) h
    (.set s.pin.serialIn (levelOfBit (maskedBit s.dsr s.mask)))
  obtain ⟨hpulse, hend⟩ := State.pulse_ok .shiftClock hrest
  rw [State.granted_pin] at hpulse hend
  exact ⟨by rw [State.sendBit, hset, Progress.ok_andThen, hpulse, Progress.ok_andThen, State.sentBit], hend.nextBit⟩

theorem State.sendBits_ok (k : Nat) {s : State} {n : Nat} (h : s.accepts (n + 4 * k)) :
    s.sendBits k = .ok (State.sentBit^[k] s) ∧ (State.sentBit^[k] s).accepts n := by
  induction k generalizing s with
  | zero => exact ⟨rfl, h⟩
  | succ k ih =>
    obtain ⟨hbit, hrest⟩ := State.sendBit_ok (n := n + 4 * k) (s := s) h
    rw [State.sendBits, hbit, Function.iterate_succ_apply]
    exact ih hrest

/-- The shifter on the way: after `k` bits of `data` have been sent (10_state R28, R29). -/
structure State.Shifting (ps : PinSet) (cap data k : Nat) (s : State) : Prop where
  pin : s.pin = ps
  capacity : s.cap = cap
  dsr : s.dsr = (data <<< k) % 2 ^ cap
  mask : s.mask = msbMask cap

section Shifting

variable {ps : PinSet} {cap data k : Nat} {s : State}

theorem State.Shifting.sentBit (h : s.Shifting ps cap data k) : s.sentBit.Shifting ps cap data (k + 1) where
  pin := by simpa [State.sentBit, State.performed_registers] using h.pin
  capacity := by simpa [State.sentBit, State.performed_registers] using h.capacity
  dsr := by
    simp [State.sentBit, State.performed_registers, h.dsr, h.capacity, shiftedDsr, Nat.shiftLeft_eq, pow_succ,
      Nat.mul_assoc]
  mask := by simpa [State.sentBit, State.performed_registers] using h.mask

/-- The bit sent is the one at place `k` from the most significant (42_write R151). -/
theorem State.Shifting.sentBit_trace (h : s.Shifting ps cap data k) (hk : k < cap) :
    s.sentBit.trace = s.trace ++ bitEvents ps cap data k := by
  have hbit : maskedBit s.dsr s.mask = data.testBit (cap - 1 - k) := by
    rw [h.dsr, h.mask, maskedBit_shifted data cap k hk]
  simp [State.sentBit, State.performed_trace, hbit, h.pin, bitEvents, PinSet.at]

theorem State.Shifting.sentBits (h : s.Shifting ps cap data 0) (k : Nat) (hk : k ≤ cap) :
    (State.sentBit^[k] s).Shifting ps cap data k ∧
      (State.sentBit^[k] s).trace = s.trace ++ (List.range k).flatMap (bitEvents ps cap data) := by
  induction k with
  | zero => exact ⟨h, by simp⟩
  | succ k ih =>
    obtain ⟨hshifting, htrace⟩ := ih (by omega)
    rw [Function.iterate_succ_apply']
    refine ⟨hshifting.sentBit, ?_⟩
    rw [hshifting.sentBit_trace (by omega), htrace, List.range_succ, List.flatMap_append, List.append_assoc]
    simp

end Shifting

/-- The state after a WRITE of `data` up to its response, every transaction answered `ok`. -/
def State.written (data : Nat) (s : State) : State :=
  (State.sentBit^[s.cap] ((s.performed (clearActs s.pin.clear)).loadShifter data)).performed
    (pulseActs (s.pin.at .latchClock))

/-- After the clear strobe the shifter holds `data`, none of it sent. -/
theorem State.shifting_loadShifter {data : Nat} {s : State} (hd : data < 2 ^ s.cap) :
    ((s.performed (clearActs s.pin.clear)).loadShifter data).Shifting s.pin s.cap data 0 := by
  constructor <;> simp [State.performed_registers, Nat.mod_eq_of_lt hd]

theorem execWrite_ok {data : Nat} {s : State} (hst : s.st = .ready) (hd : data < 2 ^ s.cap)
    {n : Nat} (h : s.accepts (n + (4 * s.cap + 5))) :
    exec (.write data) s = .next ((s.written data).respond .ok) ∧ (s.written data).accepts n := by
  obtain ⟨hclear, hrest⟩ := State.clearSeq_ok (n := n + 3 + 4 * s.cap) (h.mono (by omega))
  obtain ⟨hbits, hlast⟩ := State.sendBits_ok s.cap (hrest.loadShifter data)
  obtain ⟨hlatch, hend⟩ := State.pulse_ok .latchClock hlast
  have hcount : ((s.performed (clearActs s.pin.clear)).loadShifter data).bitcnt = s.cap := by
    simp [State.performed_registers]
  obtain ⟨hshifting, -⟩ := (State.shifting_loadShifter hd).sentBits s.cap le_rfl
  rw [hshifting.pin] at hlatch hend
  refine ⟨?_, hend⟩
  rw [exec, execWrite, if_neg (by simp [hst]), if_neg (by simpa [tooWide] using hd), hclear, Progress.ok_andThen,
    Progress.ok_andThen, hcount, hbits, Progress.ok_andThen, hlatch]
  rfl

theorem State.written_trace {data : Nat} {s : State} (hd : data < 2 ^ s.cap) :
    (s.written data).trace = s.trace ++ writeEvents s.pin s.cap data := by
  obtain ⟨-, htrace⟩ := (State.shifting_loadShifter hd).sentBits s.cap le_rfl
  simp [State.written, State.performed_trace, htrace, writeEvents, PinSet.at]

/-! ### DESTROY -/

/-- The releases of a teardown (43_destroy R170). -/
def relActs (ps : List Nat) : List Act := ps.map (fun p => .port (.rel p))

/-- The events of a teardown (43_destroy R171). -/
def teardownActs (ps : PinSet) : List Act :=
  clearActs ps.clear ++ pulseActs ps.latchClock ++ [.port (.setM ps.toList .low)] ++ relActs ps.toList

theorem State.releaseWarning_ok (ps : List Nat) {s : State} {n : Nat} (h : s.accepts (n + ps.length)) :
    s.releaseWarning ps = .ok (s.performed (relActs ps)) ∧ (s.performed (relActs ps)).accepts n := by
  induction ps generalizing s with
  | nil => exact ⟨rfl, h⟩
  | cons p ps ih =>
    obtain ⟨hissue, hrest⟩ := State.issue_ok (n := n + ps.length) h (.rel p)
    rw [State.releaseWarning, hissue]
    exact ih hrest

theorem State.teardown_ok {s : State} {n : Nat} (h : s.accepts (n + 10)) :
    s.teardown = .ok ((s.performed (teardownActs s.pin)).enter .released) ∧
      ((s.performed (teardownActs s.pin)).enter .released).accepts n := by
  obtain ⟨hclear, hrest⟩ := State.clearSeq_ok (n := n + 8) h
  obtain ⟨hlatch, hrest⟩ := State.pulse_ok (n := n + 5) .latchClock hrest
  obtain ⟨hlow, hrest⟩ := State.issue_ok (n := n + 4) hrest (.setM s.pin.toList .low)
  obtain ⟨hrelease, -⟩ := State.releaseWarning_ok s.pin.toList hrest
  obtain ⟨-, hend⟩ := State.perform_ok (teardownActs s.pin) (n := n) h
  have hpin : ∀ as, (s.performed as).pin = s.pin := fun as => by simp [State.performed_registers]
  simp only [hpin] at hlatch hlow hrelease
  refine ⟨?_, hend.enter .released⟩
  simp only [State.teardown, State.allLow, hclear, hlatch, hlow, hrelease, Progress.orWarn, Progress.ok_andThen,
    State.granted_pin, State.performed_registers]
  simp only [teardownActs, State.performed_append]
  rfl

theorem execDestroy_ok {s : State} (hst : s.st = .ready) {n : Nat} (h : s.accepts (n + 10)) :
    exec .destroy s = .next (((s.performed (teardownActs s.pin)).enter .released).respond .ok) ∧
      ((s.performed (teardownActs s.pin)).enter .released).accepts n := by
  obtain ⟨hteardown, hend⟩ := State.teardown_ok h
  refine ⟨?_, hend⟩
  rw [exec, execDestroy, if_pos (by simp [State.constructed, State.tornDown, hst]), hteardown]
  rfl

theorem okEvents_teardownActs (ps : PinSet) : okEvents (teardownActs ps) = teardownEvents ps := rfl

/-! ### Counting (20_memory R62) -/

theorem eventCounts_append (es fs : List Event) :
    eventCounts (es ++ fs) = List.zipWith (· + ·) (eventCounts es) (eventCounts fs) := by
  simp [eventCounts, settleCount]

theorem eventCounts_respond (es : List Event) (r : Response) : eventCounts (es ++ [.respond r]) = eventCounts es := by
  rw [eventCounts_append]
  rfl

theorem eventCounts_bits (ps : PinSet) (cap data n : Nat) :
    eventCounts ((List.range n).flatMap (bitEvents ps cap data)) = [0, 4 * n, 0, 0, 2 * n] := by
  induction n with
  | zero => rfl
  | succ n ih =>
    have hbit : eventCounts (bitEvents ps cap data n) = [0, 4, 0, 0, 2] := rfl
    rw [List.range_succ, List.flatMap_append, eventCounts_append, ih, List.flatMap_singleton, hbit]
    rfl

theorem eventCounts_writeEvents (ps : PinSet) (cap data : Nat) :
    eventCounts (writeEvents ps cap data) = [0, 4 * cap + 5, 0, 0, 2 * cap + 3] := by
  have hclear : eventCounts (clearEvents ps.clear) = [0, 2, 0, 0, 1] := rfl
  have hlatch : eventCounts (pulseEvents ps.latchClock) = [0, 3, 0, 0, 2] := rfl
  rw [writeEvents, eventCounts_append, eventCounts_append, eventCounts_bits, hclear, hlatch]
  simp
  omega

/-- A command that has added `es` to the trace and responds has the counts of `es`. -/
theorem exists_eventCounts {x : StepResult} {s u : State} {r : Response} {es : List Event} {counts : List Nat}
    (h : x = .next (u.respond r) ∧ u.accepts 0) (htrace : u.trace = s.trace ++ es) (hcounts : eventCounts es = counts) :
    ∃ t fs, x = .next t ∧ t.trace = s.trace ++ fs ∧ eventCounts fs = counts := by
  obtain ⟨hx, hend⟩ := h
  refine ⟨_, es ++ [.respond r], hx, ?_, (eventCounts_respond es r).trans hcounts⟩
  rw [State.respond_trace (by simp [hend.cut]), htrace, List.append_assoc]

/-- Settles O46: each command runs to its end with the events the spec lists, and these have the counts of its row. -/
theorem transactionCounts : Obligations.TransactionCounts := by
  refine ⟨fun p0 p1 p2 p3 n s hst h => ?_, fun s hst h => ?_, fun s hst h => ?_, fun data s hst hd h => ?_,
    fun s hst h => ?_, fun r s h => ?_⟩
  · exact exists_eventCounts (execConstruct_ok (ps := ⟨p0, p1, p2, p3⟩) hst (Int.natCast_nonneg n) h)
      (by rw [State.enter_trace, State.acquired_trace, State.adopt_trace]) rfl
  · exact exists_eventCounts (es := []) ⟨execCapacity_of_ready hst, h⟩ (by simp) rfl
  · exact exists_eventCounts (execClear_ok hst h) (State.performed_trace _ s) rfl
  · exact exists_eventCounts (execWrite_ok hst hd (h.mono (by omega))) (State.written_trace hd)
      (eventCounts_writeEvents s.pin s.cap data)
  · exact exists_eventCounts (execDestroy_ok hst h)
      (by rw [State.enter_trace, State.performed_trace, okEvents_teardownActs]) rfl
  · exact ⟨_, _, (State.pulse_ok (n := 0) r h).1, State.performed_trace _ s, rfl⟩

end Sys2Proof.Machine

/-! ## Frames

What the decoder answers for each opcode of 30_encoding R96, when it rejects a frame, and how its operands come back
from the encoder. -/

namespace Sys2Proof

/-! ### The decoder, opcode by opcode (30_encoding R96, R101) -/

theorem decode_construct (bs : List Byte) : decode (0x01#8 :: bs) = decodeConstruct bs := rfl

theorem decode_capacity (bs : List Byte) : decode (0x02#8 :: bs) = decodeBare .capacity bs := rfl

theorem decode_clear (bs : List Byte) : decode (0x03#8 :: bs) = decodeBare .clear bs := rfl

theorem decode_write (bs : List Byte) : decode (0x04#8 :: bs) = decodeWrite bs := rfl

theorem decode_destroy (bs : List Byte) : decode (0x05#8 :: bs) = decodeBare .destroy bs := rfl

/-- The rows of the table of R96: an opcode is reserved or one of the five. -/
theorem opcode_cases (op : Byte) : (op = 0x00#8 ∨ 0x06 ≤ op.toNat) ∨
    op = 0x01#8 ∨ op = 0x02#8 ∨ op = 0x03#8 ∨ op = 0x04#8 ∨ op = 0x05#8 := by bv_omega

theorem decode_reserved {op : Byte} (h : op = 0x00#8 ∨ 0x06 ≤ op.toNat) (bs : List Byte) :
    decode (op :: bs) = .error .reservedOpcode := by
  have hne : op ≠ 0x01#8 ∧ op ≠ 0x02#8 ∧ op ≠ 0x03#8 ∧ op ≠ 0x04#8 ∧ op ≠ 0x05#8 := by bv_omega
  simp only [decode, opConstruct, opCapacity, opClear, opWrite, opDestroy, hne, if_false]

/-! ### Which frames are rejected (30_encoding R100, R101) -/

theorem decodeConstruct_error_iff (bs : List Byte) : (∃ e, decodeConstruct bs = .error e) ↔ bs.length ≠ 5 := by
  unfold decodeConstruct
  split
  · simp
  · next hshape =>
    refine iff_of_true ⟨_, rfl⟩ fun hlen => ?_
    match bs, hlen with
    | [a, b, c, d, n], _ => exact hshape a b c d n rfl

theorem decodeBare_error_iff (i : Instr) (bs : List Byte) : (∃ e, decodeBare i bs = .error e) ↔ bs ≠ [] := by
  cases bs <;> simp [decodeBare]

theorem decodeWrite_cons_error_iff (len : Byte) (ds : List Byte) :
    (∃ e, decodeWrite (len :: ds) = .error e) ↔ ds.length ≠ len.toNat := by
  by_cases h : ds.length = len.toNat <;> simp [decodeWrite, h]

theorem decode_error_iff (bs : List Byte) : (∃ e, decode bs = .error e) ↔ Machine.IllegalFrame bs := by
  cases bs with
  | nil => exact iff_of_true ⟨_, rfl⟩ (.inl rfl)
  | cons op bs =>
    rcases opcode_cases op with h | rfl | rfl | rfl | rfl | rfl
    · exact iff_of_true ⟨_, decode_reserved h bs⟩ (.inr (.inl ⟨op, bs, rfl, h⟩))
    · rw [decode_construct, decodeConstruct_error_iff]
      simp [Machine.IllegalFrame]
    · rw [decode_capacity, decodeBare_error_iff]
      simp [Machine.IllegalFrame]
    · rw [decode_clear, decodeBare_error_iff]
      simp [Machine.IllegalFrame]
    · rw [decode_write]
      cases bs with
      | nil => exact iff_of_true ⟨_, rfl⟩ (by simp [Machine.IllegalFrame])
      | cons len ds =>
        have hlen : ds.length + 1 + 1 = 2 + len.toNat ↔ ds.length = len.toNat := by omega
        rw [decodeWrite_cons_error_iff]
        simp [Machine.IllegalFrame, hlen]
    · rw [decode_destroy, decodeBare_error_iff]
      simp [Machine.IllegalFrame]

/-! ### Operands there and back (30_encoding R98, R99, R104) -/

theorem zext8_ofNat {p : Nat} (h : pinFits p = true) : zext8 (BitVec.ofNat 8 p) = p := by
  have hp : p ≤ 255 := of_decide_eq_true h
  rw [zext8, BitVec.toNat_ofNat]
  omega

theorem sext8_ofInt {n : Int} (h : slavesFit n = true) : sext8 (BitVec.ofInt 8 n) = n := by
  obtain ⟨hmin, hmax⟩ := (Bool.and_eq_true _ _).mp h
  exact BitVec.toInt_ofInt_eq_self (by decide) (of_decide_eq_true hmin) (Int.lt_add_one_of_le (of_decide_eq_true hmax))

theorem sext8_eq_ite (b : Byte) : sext8 b = if b.toNat < 128 then (b.toNat : Int) else (b.toNat : Int) - 256 := by
  rw [sext8, BitVec.toInt_eq_toNat_cond]
  simp only [Nat.reducePow]
  split <;> split <;> omega

theorem dataBytes_length_le (v : Nat) : (dataBytes v).length ≤ 255 := by
  rw [dataBytes, List.length_reverse]
  exact leBytes_length Config.lenMax v

theorem beValue_dataBytes {v : Nat} (h : dataFits v = true) : beValue (dataBytes v) = v :=
  beValue_leBytes 254 v (of_decide_eq_true h)

/-- A length up to 255 is what the `LEN` byte says, so the frame is accepted (30_encoding R99). -/
theorem decode_writeFrame {ds : List Byte} (h : ds.length ≤ 255) :
    decode (writeFrame ds) = .ok (.write (beValue ds)) := by
  have hlen : ds.length = (BitVec.ofNat 8 ds.length).toNat := by
    rw [BitVec.toNat_ofNat]
    omega
  exact if_pos hlen

/-- The sum of R99: byte `j` has the weight of the bytes after it. -/
theorem beValue_eq_sum (ds : List Byte) :
    beValue ds = ∑ j ∈ Finset.range ds.length, (ds.getD j 0#8).toNat * 256 ^ (ds.length - 1 - j) := by
  induction ds with
  | nil => rfl
  | cons d ds ih =>
    rw [beValue_cons, ih, List.length_cons, Finset.sum_range_succ', add_comm]
    simp [Nat.sub_sub, Nat.add_comm 1]

theorem beValue_zero_cons (ds : List Byte) : beValue (0x00#8 :: ds) = beValue ds := by
  simp [beValue_cons]

end Sys2Proof

namespace Sys2Proof.Machine

/-- Settles O2: each operand comes back from its bytes, and the decoder puts them together again. -/
theorem decodeOfEncode : Obligations.DecodeOfEncode := by
  intro i h
  cases i with
  | construct p0 p1 p2 p3 n =>
    simp only [Instr.wellFormed, Bool.and_eq_true] at h
    obtain ⟨⟨⟨⟨h0, h1⟩, h2⟩, h3⟩, hn⟩ := h
    rw [encode, opConstruct, decode_construct, decodeConstruct, zext8_ofNat h0, zext8_ofNat h1, zext8_ofNat h2,
      zext8_ofNat h3, sext8_ofInt hn]
  | capacity => exact decode_capacity []
  | clear => exact decode_clear []
  | write data => rw [encode, decode_writeFrame (dataBytes_length_le data), beValue_dataBytes h]
  | destroy => exact decode_destroy []

/-- Settles O3: the slave count is the one operand that is not its byte. -/
theorem constructFrameOperands : Obligations.ConstructFrameOperands := by
  intro a b c d n
  simp only [decode_construct, decodeConstruct, zext8, sext8_eq_ite]

/-- Settles O4: a WRITE frame carries `beValue` of its data bytes, which is the sum of R99 and ignores leading zeros. -/
theorem writeFrameIsBigEndian : Obligations.WriteFrameIsBigEndian := by
  refine ⟨fun ds h => ?_, fun ds h => ?_⟩
  · rw [← beValue_eq_sum]
    exact decode_writeFrame h
  · have hlonger : decode (writeFrame (0x00#8 :: ds)) = .ok (.write (beValue (0x00#8 :: ds))) :=
      decode_writeFrame (Nat.succ_le_succ h)
    rw [beValue_zero_cons, ← decode_writeFrame (h.trans (by decide))] at hlonger
    exact hlonger

/-! ### The step on a submitted frame (30_encoding R92, R101) -/

theorem step_submit {s : State} {frame : List Byte} {rest : List HostMove} (h : s.inbox = .submit frame none :: rest) :
    step s = runFrame frame { s with inbox := rest, cut := none } := by
  simp only [step, State.fetch, h]

theorem runFrame_of_decode_ok {frame : List Byte} {i : Instr} (h : decode frame = .ok i) (s : State) :
    runFrame frame s = exec i (s.begin s.cut) := by
  simp only [runFrame, h]

theorem runFrame_of_illegal {frame : List Byte} (h : IllegalFrame frame) (s : State) :
    runFrame frame s = s.raise .illegalCommand := by
  obtain ⟨e, he⟩ := (decode_error_iff frame).mpr h
  simp only [runFrame, he]

/-- Settles O5: the rejected frames are `decode_error_iff`, and a step that takes one only answers. -/
theorem illegalFramesRejected : Obligations.IllegalFramesRejected := by
  refine ⟨decode_error_iff, fun s bs rest hbs hin hcut => ?_⟩
  rw [step_submit hin, runFrame_of_illegal hbs, State.raise, State.respond_of_cut_none rfl, ← hcut]

/-- Settles O1: a frame for each opcode, the sign and the leading zeros among them. -/
theorem knownFramesDecode : Obligations.KnownFramesDecode := by
  unfold Obligations.KnownFramesDecode
  decide

/-- Settles O6: the two payloads of more than a fixed byte are split into their bytes again. -/
theorem responseFrameBytes : Obligations.ResponseFrameBytes := by
  refine ⟨rfl, fun hh ll => ?_, rfl, fun i => ?_, rfl, rfl, rfl⟩
  · have hhigh : (hh.toNat * 256 + ll.toNat) / 256 = hh.toNat := by omega
    have hlow : (hh.toNat * 256 + ll.toNat) % 256 = ll.toNat := by omega
    rw [Response.frame, hhigh, hlow, BitVec.ofNat_toNat, BitVec.ofNat_toNat, BitVec.setWidth_eq, BitVec.setWidth_eq]
  · rw [Response.frame, BitVec.ofNat_toNat, BitVec.setWidth_eq]

/-- Settles O7: the step hands the frame to `runFrame`, which decodes it and begins the command. -/
theorem stepRunsDecodedCommand : Obligations.StepRunsDecodedCommand := by
  intro s frame rest i hin hdecode
  rw [step_submit hin, runFrame_of_decode_ok hdecode, State.begin]

end Sys2Proof.Machine

/-! ## CONSTRUCT and CAPACITY

How a CONSTRUCT ends: rejected by a check, with four pins configured, or with the pins before a denied `Cfg` released
again; and what CAPACITY answers after it (40_construct_capacity R120 to R131). -/

namespace Sys2Proof.Machine

/-! ### What is only answered -/

theorem execConstruct_of_negative {ps : PinSet} {n : Int} {s : State} (hst : s.st = .uninitialized) (hn : n < 0) :
    exec (.construct ps.serialIn ps.shiftClock ps.latchClock ps.clear n) s = .next (s.respond .invalidArgument) := by
  rw [exec, execConstruct, if_neg (by simp [hst]), if_pos (by simpa [badSlaveCount] using hn), State.raise]

/-- CONSTRUCT outside `Uninitialized`, or with a negative slave count, only answers (40_construct_capacity
R122, R126). -/
theorem execConstruct_of_rejected {ps : PinSet} {n : Int} {s : State} (h : ¬ (s.st = .uninitialized ∧ 0 ≤ n)) :
    ∃ r, exec (.construct ps.serialIn ps.shiftClock ps.latchClock ps.clear n) s = .next (s.respond r) := by
  by_cases hst : s.st = .uninitialized
  · exact ⟨_, execConstruct_of_negative hst (not_le.mp (fun hn => h ⟨hst, hn⟩))⟩
  · exact ⟨_, exec_of_not_serves (by simpa [Lifecycle.serves] using hst)⟩

/-- Settles O12: the argument check comes before the operands are adopted. -/
theorem constructRejectsNegativeSlaves : Obligations.ConstructRejectsNegativeSlaves := by
  intro p0 p1 p2 p3 ns s hst hn hcut
  rw [execConstruct_of_negative (ps := ⟨p0, p1, p2, p3⟩) hst hn, State.respond_of_cut_none hcut]

/-- Settles O13: `Uninitialized` is the only state that serves CONSTRUCT. -/
theorem constructOutsideUninitialized : Obligations.ConstructOutsideUninitialized := by
  intro p0 p1 p2 p3 ns s hst hcut
  rw [exec_of_not_serves (by simpa [Lifecycle.serves] using hst), State.respond_of_cut_none hcut, declined]

/-- Settles O17: `Ready` is the only state that serves CAPACITY. -/
theorem capacityReadsCap : Obligations.CapacityReadsCap := by
  refine ⟨fun s hst hcut => ?_, fun s hst hcut => ?_⟩
  · rw [exec, execCapacity_of_ready hst, State.respond_of_cut_none hcut]
  · rw [exec_of_not_serves (by simpa [Lifecycle.serves] using hst), State.respond_of_cut_none hcut, declined]

/-! ### Pins that have been configured -/

/-- The registers a run of `Cfg` leaves alone. -/
theorem State.acquired_registers (ps : List Nat) (s : State) :
    (s.acquired ps).st = s.st ∧ (s.acquired ps).pin = s.pin ∧ (s.acquired ps).ns = s.ns ∧
    (s.acquired ps).cap = s.cap ∧ (s.acquired ps).cut = s.cut := by
  induction ps generalizing s with
  | nil => simp [State.acquired]
  | cons p ps ih => simp [State.acquired, ih]

theorem State.acquired_acq (ps : List Nat) (s : State) : (s.acquired ps).acq = s.acq + ps.length := by
  induction ps generalizing s with
  | nil => rfl
  | cons p ps ih => simp [State.acquired, ih, Nat.add_assoc, Nat.add_comm 1]

theorem State.acquired_seq (ps : List Nat) (s : State) : (s.acquired ps).seq = s.seq + ps.length := by
  induction ps generalizing s with
  | nil => rfl
  | cons p ps ih => simp [State.acquired, ih, Nat.add_assoc, Nat.add_comm 1]

theorem State.acquired_answers (ps : List Nat) (s : State) :
    (s.acquired ps).answers = s.answers.drop ps.length := by
  induction ps generalizing s with
  | nil => rfl
  | cons p ps ih => simp [State.acquired, ih]

theorem State.acquired_owned (ps : List Nat) (s : State) (q : Nat) :
    (s.acquired ps).owned q = if q ∈ ps then some true else s.owned q := by
  induction ps generalizing s with
  | nil => simp [State.acquired]
  | cons p ps ih =>
    rw [State.acquired, ih, State.countPin_owned, State.granted_owned, State.settled, State.comeUp_owned,
      State.owned_setOwned]
    by_cases hq : q = p <;> simp [hq]

theorem State.acquired_level (ps : List Nat) (s : State) (q : Nat) :
    (s.acquired ps).level q = if q ∈ ps then none else s.level q := by
  induction ps generalizing s with
  | nil => simp [State.acquired]
  | cons p ps ih =>
    rw [State.acquired, ih, State.countPin_level, State.granted_level, State.settled, State.comeUp_level,
      State.level_setOwned]
    by_cases hq : q = p <;> simp [hq]

/-- Only a fresh `clear` can act on `SHIFT` (70_reset_and_hazards R252). -/
theorem State.acquired_shift {ps : List Nat} {s : State} (h : s.pin.clear ∉ ps) :
    (s.acquired ps).shift = s.shift := by
  induction ps generalizing s with
  | nil => rfl
  | cons p ps ih =>
    obtain ⟨hp, hps⟩ := List.ne_and_not_mem_of_not_mem_cons h
    rw [State.acquired, ih (by simpa using hps), State.countPin_shift, State.granted_shift]
    rcases (s.settled_cfg_load p .ok).2 with hshift | ⟨hclear, -⟩
    · exact hshift
    · exact absurd hclear.symm hp

/-- Settles O11: the state after four granted `Cfg`, field by field; what CONSTRUCT leaves alone is `constructFrame`. -/
theorem constructSucceeds : Obligations.ConstructSucceeds := by
  intro p0 p1 p2 p3 ns s hst hn haccepts
  obtain ⟨hexec, hend⟩ := execConstruct_ok (ps := ⟨p0, p1, p2, p3⟩) (m := 0) hst hn haccepts
  obtain ⟨hshift, hout, hdsr, hmask, hbitcnt, hinbox, hcut, -⟩ := constructFrame p0 p1 p2 p3 ns s _ hexec
  refine ⟨_, hexec, ?_, ?_, ?_, ?_, ?_, ?_, ?_, ?_, ?_, fun p => ⟨?_, ?_⟩, hshift, hout, hdsr, hmask, hbitcnt, ?_,
    hinbox, hcut.trans haccepts.cut⟩
  · exact State.respond_st _ _
  · simp [State.constructed]
  · simp [State.tornDown]
  · simp [State.acquired_registers]
  · simpa [State.acquired_registers] using hn
  · simp [State.acquired_registers, capacityOf, Config.bitsPerStage]
  · simp [State.acquired_acq, PinSet.toList]
  · simp [State.acquired_seq, PinSet.toList]
  · rw [State.respond_trace (by rw [hend.cut]; nofun), State.enter_trace, State.acquired_trace,
      State.adopt_trace, List.append_assoc]
    rfl
  · rw [State.respond_owned, State.enter_owned, State.acquired_owned, State.adopt_owned]
    rfl
  · rw [State.respond_level, State.enter_level, State.acquired_level, State.adopt_level]
    rfl
  · rw [State.respond_answers, State.enter_answers, State.acquired_answers, State.adopt_answers]
    rfl

/-- Settles O18: CONSTRUCT adopts the capacity of its slave count, and CAPACITY reads it. -/
theorem capacityLaw : Obligations.CapacityLaw := by
  intro p0 p1 p2 p3 n s hst haccepts
  obtain ⟨hexec, hend⟩ :=
    execConstruct_ok (ps := ⟨p0, p1, p2, p3⟩) (m := 0) hst (Int.natCast_nonneg n) haccepts
  refine ⟨_, _, hexec, capacityReadsCap.1 _ (State.respond_st _ _) (by simpa using hend.cut), ?_⟩
  simp [State.acquired_registers, capacityOf, Config.bitsPerStage]

/-! ### The releases of a rollback -/

/-- The state after a transaction that has got its next answer, whichever it is. -/
def State.completed (s : State) (x : Transaction) : State :=
  ((s.settled x s.nextAnswer).record (.port x s.nextAnswer.ack)).dropAnswer

/-- An ignored answer lets the rollback go on (40_construct_capacity R124). -/
theorem State.issue_orIgnore {s : State} (hcut : s.cut = none) (h : s.nextAnswer ≠ .silent) (x : Transaction) :
    (s.issue x).orIgnore = .ok (s.completed x) := by
  rcases s.issue_cases x with ⟨hc, -⟩ | ⟨ha, hi⟩ | ⟨es, ha, hi⟩ | ⟨ha, -⟩ | ⟨ha, -⟩
  · simp [hcut] at hc
  · rw [hi, State.completed, ha]; rfl
  · rw [hi, State.completed, ha]; rfl
  · exact absurd ha h
  · exact absurd ha h

theorem State.ack_nextAnswer (s : State) : s.nextAnswer.ack = s.ackAt 0 := by
  rw [State.nextAnswer, State.ackAt, List.headD_eq_head?_getD, List.getD_eq_getElem?_getD, List.head?_eq_getElem?]

/-- Dropping answers moves the later ones up. -/
theorem State.ackAt_of_answers_drop {s u : State} {m : Nat} (h : u.answers = s.answers.drop m) (j : Nat) :
    u.ackAt j = s.ackAt (m + j) := by
  simp [State.ackAt, h]

theorem State.completed_answers (s : State) (x : Transaction) : (s.completed x).answers = s.answers.drop 1 := by
  simp [State.completed]

theorem State.completed_trace (s : State) (x : Transaction) :
    (s.completed x).trace = s.trace ++ [.port x (s.ackAt 0)] := by
  simp [State.completed, State.ack_nextAnswer]

theorem State.ackAt_completed (s : State) (x : Transaction) (j : Nat) :
    (s.completed x).ackAt j = s.ackAt (j + 1) := by
  rw [State.ackAt_of_answers_drop (s.completed_answers x), Nat.add_comm]

/-- The state after pins have been released, each `Rel` with its own answer. -/
def State.releasedAll : List Nat → State → State
  | [], s => s
  | p :: ps, s => State.releasedAll ps (s.completed (.rel p))

theorem State.releaseIgnoring_answered (ps : List Nat) {s : State} (hcut : s.cut = none)
    (h : ∀ a ∈ s.answers.take ps.length, a ≠ .silent) : s.releaseIgnoring ps = .ok (s.releasedAll ps) := by
  induction ps generalizing s with
  | nil => rfl
  | cons p ps ih =>
    have hnext : s.nextAnswer ≠ .silent ∧ ∀ a ∈ s.answers.tail.take ps.length, a ≠ .silent := by
      rcases ha : s.answers with _ | ⟨a, as⟩
      · simp [State.nextAnswer, ha]
      · simpa [State.nextAnswer, ha] using h
    rw [State.releaseIgnoring, State.issue_orIgnore hcut hnext.1, Progress.ok_andThen, State.releasedAll]
    exact ih (by simpa [State.completed] using hcut) (by simpa [State.completed] using hnext.2)

/-- What a run of `Rel` leaves alone (20_memory R76). -/
theorem State.releasedAll_registers (ps : List Nat) (s : State) :
    (s.releasedAll ps).acq = s.acq ∧ (s.releasedAll ps).cut = s.cut ∧ (s.releasedAll ps).shift = s.shift ∧
    (s.releasedAll ps).out = s.out := by
  induction ps generalizing s with
  | nil => simp [State.releasedAll]
  | cons p ps ih => simp [State.releasedAll, ih, State.completed, State.settled_rel_load]

/-- The trace items of a run of `Rel`, number `j` answered `acks j`. -/
def relEvents (ps : List Nat) (acks : Nat → Ack) : List Event :=
  (List.range ps.length).map (fun j => .port (.rel (ps.getD j 0)) (acks j))

theorem State.releasedAll_trace (ps : List Nat) (s : State) :
    (s.releasedAll ps).trace = s.trace ++ relEvents ps s.ackAt := by
  induction ps generalizing s with
  | nil => simp [State.releasedAll, relEvents]
  | cons p ps ih =>
    rw [State.releasedAll, ih]
    simp [State.completed_trace, relEvents, List.range_succ_eq_map, State.ackAt_completed]

theorem State.completed_rel_owned {s : State} (h : s.ackAt 0 = .ok) (p q : Nat) :
    (s.completed (.rel p)).owned q = if q = p then some false else s.owned q := by
  have ha : s.nextAnswer = .ok := by
    rw [← State.ack_nextAnswer] at h
    cases hn : s.nextAnswer with
    | ok => rfl
    | err es => simp [hn, Answer.ack] at h
    | silent => simp [hn, Answer.ack] at h
  rw [State.completed, ha, State.dropAnswer_owned, State.record_owned, State.settled, State.owned_setOwned]

/-- Releases that all answer `ok` give up their pins and no other. -/
theorem State.releasedAll_owned {ps : List Nat} {s : State} (h : ∀ j < ps.length, s.ackAt j = .ok) (q : Nat) :
    (s.releasedAll ps).owned q = if q ∈ ps then some false else s.owned q := by
  induction ps generalizing s with
  | nil => simp [State.releasedAll]
  | cons p ps ih =>
    rw [State.releasedAll, ih (fun j hj => by rw [State.ackAt_completed]; exact h (j + 1) (by simpa using hj)),
      State.completed_rel_owned (h 0 (by simp))]
    by_cases hq : q = p <;> simp [hq]

/-! ### A CONSTRUCT that rolls back -/

/-- A denied `Cfg` changes nothing (20_memory R56). -/
theorem State.settled_cfg_err (s : State) (p : Nat) (edges : List Role) : s.settled (.cfg p) (.err edges) = s := rfl

/-- The state in which `Cfg` number `i` has been denied, those before it granted. -/
def State.refusedAt (ps : List Nat) (i : Nat) (edges : List Role) (s : State) : State :=
  (s.acquired (ps.take i)).denied (.cfg (ps.getD i 0)) edges

theorem State.acquire_failsAt {ps : List Nat} {i : Nat} {edges : List Role} {s : State} (hi : i < ps.length)
    (h : s.failsAt i edges) : s.acquire ps = .failed (s.refusedAt ps i edges) := by
  induction ps generalizing s i with
  | nil => cases hi
  | cons p ps ih =>
    cases i with
    | zero => rw [State.acquire, h.issue]; rfl
    | succ i =>
      obtain ⟨hissue, hrest⟩ := h.issue_succ (.cfg p)
      rw [State.acquire, hissue, Progress.ok_andThen, ih (by simpa using hi) (s := (s.granted (.cfg p)).countPin) hrest]
      rfl

/-- The state after the pins acquired have been released and the rollback, if there was one, logged. -/
def State.rolledBack (s : State) : State :=
  if s.acq = 0 then s.releasedAll (s.pin.toList.take s.acq)
  else (s.releasedAll (s.pin.toList.take s.acq)).record (.log .rollback)

theorem State.rollback_answered {s : State} (hcut : s.cut = none)
    (h : ∀ a ∈ s.answers.take s.acq, a ≠ .silent) : s.rollback = .ok (s.rolledBack.enter .failed) := by
  have hrel : s.releaseIgnoring (s.pin.toList.take s.acq) = .ok (s.releasedAll (s.pin.toList.take s.acq)) :=
    State.releaseIgnoring_answered _ hcut
      (fun a ha => h a (List.take_subset_take_left _ (List.length_take_le _ _) ha))
  obtain ⟨hacq, hcut', -⟩ := s.releasedAll_registers (s.pin.toList.take s.acq)
  rw [State.rollback, hrel, Progress.ok_andThen, hacq, State.rolledBack]
  split
  · rfl
  · rw [State.emit_of_cut_none (hcut'.trans hcut)]; rfl

theorem State.rolledBack_load (s : State) : s.rolledBack.shift = s.shift ∧ s.rolledBack.out = s.out := by
  unfold State.rolledBack
  split <;> simp [State.releasedAll_registers]

theorem State.rolledBack_cut (s : State) : s.rolledBack.cut = s.cut := by
  unfold State.rolledBack
  split <;> simp [State.releasedAll_registers]

theorem State.rolledBack_trace (s : State) :
    s.rolledBack.trace = s.trace ++ relEvents (s.pin.toList.take s.acq) s.ackAt ++
      if s.acq = 0 then [] else [.log .rollback] := by
  unfold State.rolledBack
  split <;> simp [State.releasedAll_trace]

theorem State.rolledBack_owned {s : State} (h : ∀ j < s.acq, s.ackAt j = .ok) (q : Nat) :
    s.rolledBack.owned q = if q ∈ s.pin.toList.take s.acq then some false else s.owned q := by
  have hrel := State.releasedAll_owned (ps := s.pin.toList.take s.acq)
    (fun j hj => h j (hj.trans_le (List.length_take_le _ _))) q
  unfold State.rolledBack
  split <;> exact hrel

/-- The state of a CONSTRUCT whose `Cfg` number `i` answers `err`, up to its response. -/
def State.constructFailed (ps : PinSet) (n : Int) (i : Nat) (edges : List Role) (s : State) : State :=
  ((s.adopt ps n).refusedAt ps.toList i edges).rolledBack.enter .failed

section Failed

variable {ps : PinSet} {n : Int} {i : Nat} {edges : List Role} {s : State}

theorem State.constructFailed_cut : (s.constructFailed ps n i edges).cut = s.cut := by
  simp [State.constructFailed, State.rolledBack_cut, State.refusedAt, State.acquired_registers]

/-- The rollback finds its pins, their number and the answers to come. -/
theorem State.refusedAt_registers (s : State) (ps : PinSet) (n : Int) (edges : List Role) (hi : i < 4) :
    ((s.adopt ps n).refusedAt ps.toList i edges).pin = ps ∧
    ((s.adopt ps n).refusedAt ps.toList i edges).acq = i ∧
    ((s.adopt ps n).refusedAt ps.toList i edges).cut = s.cut ∧
    ((s.adopt ps n).refusedAt ps.toList i edges).answers = s.answers.drop (i + 1) := by
  have hlength : (ps.toList.take i).length = i := List.length_take_of_le hi.le
  simp [State.refusedAt, State.acquired_registers, State.acquired_acq, State.acquired_answers, hlength]

theorem execConstruct_failsAt (hst : s.st = .uninitialized) (hn : 0 ≤ n) (hi : i < 4) (h : s.failsAt i edges)
    (hanswered : ∀ a ∈ (s.answers.drop (i + 1)).take i, a ≠ .silent) :
    exec (.construct ps.serialIn ps.shiftClock ps.latchClock ps.clear n) s =
      .next ((s.constructFailed ps n i edges).respond (.pinSetupFailed i)) := by
  have hacquire : (s.adopt ps n).acquire ps.toList = .failed ((s.adopt ps n).refusedAt ps.toList i edges) :=
    State.acquire_failsAt hi h
  obtain ⟨-, hacq, hcut, hans⟩ := s.refusedAt_registers ps n edges hi
  have hrollback := State.rollback_answered (hcut.trans h.1) (by rwa [hans, hacq])
  have hcount : badSlaveCount n = false := by simpa [badSlaveCount] using hn
  rw [exec, execConstruct, if_neg (by simp [hst]), hcount, if_neg (by simp), hacquire, Progress.concludeConstruct,
    hrollback, hacq]
  rfl

theorem rollbackEvents_eq (hi : i < 4) (acks : Nat → Ack) :
    rollbackEvents ps i acks = (ps.toList.take i).map (fun p => .port (.cfg p) .ok) ++
      [.port (.cfg (ps.toList.getD i 0)) .err] ++ relEvents (ps.toList.take i) acks ++
      if i = 0 then [] else [.log .rollback] := by
  have hrel : relEvents (ps.toList.take i) acks =
      (List.range i).map (fun j => .port (.rel (ps.toList.getD j 0)) (acks j)) := by
    rw [relEvents, List.length_take_of_le hi.le]
    refine List.map_congr_left (fun j hj => ?_)
    rw [List.getD_eq_getElem?_getD, List.getElem?_take_of_lt (List.mem_range.mp hj), List.getD_eq_getElem?_getD]
  rw [hrel, rollbackEvents]

theorem State.constructFailed_trace (hi : i < 4) :
    (s.constructFailed ps n i edges).trace = s.trace ++ rollbackEvents ps i (fun j => s.ackAt (i + 1 + j)) := by
  obtain ⟨hpin, hacq, -, hans⟩ := s.refusedAt_registers ps n edges hi
  rw [State.constructFailed, State.enter_trace, State.rolledBack_trace, hpin, hacq,
    funext (State.ackAt_of_answers_drop hans), State.refusedAt, State.denied_trace, State.acquired_trace,
    State.adopt_trace, rollbackEvents_eq hi]
  simp only [List.append_assoc]

theorem State.constructFailed_shift (h : ps.clear ∉ ps.toList.take i) :
    (s.constructFailed ps n i edges).shift = s.shift := by
  rw [State.constructFailed, State.enter_shift, (State.rolledBack_load _).1, State.refusedAt, State.denied_shift,
    State.settled_cfg_err, State.acquired_shift (s := s.adopt ps n) h, State.adopt_shift]

/-- If the releases all answer `ok`, the pins configured before the denied `Cfg` are given up again. -/
theorem State.constructFailed_owned (hi : i < 4) (h : ∀ j < i, s.ackAt (i + 1 + j) = .ok) (q : Nat) :
    (s.constructFailed ps n i edges).owned q = if q ∈ ps.toList.take i then some false else s.owned q := by
  obtain ⟨hpin, hacq, -, hans⟩ := s.refusedAt_registers ps n edges hi
  have hacks : ∀ j < i, ((s.adopt ps n).refusedAt ps.toList i edges).ackAt j = .ok :=
    fun j hj => (State.ackAt_of_answers_drop hans j).trans (h j hj)
  rw [State.constructFailed, State.enter_owned, State.rolledBack_owned (by rwa [hacq]), hpin, hacq, State.refusedAt,
    State.denied_owned, State.settled_cfg_err, State.acquired_owned, State.adopt_owned]
  split <;> rfl

end Failed

/-- Settles O14: the state is `State.constructFailed`, and its rollback touches no load. -/
theorem constructRollsBack : Obligations.ConstructRollsBack := by
  intro ps ns s i edges hst hn hi hfails hanswered
  have hexec := execConstruct_failsAt (ps := ps) hst hn hi hfails hanswered
  obtain ⟨-, hout, -⟩ := constructFrame _ _ _ _ _ _ _ hexec
  refine ⟨_, hexec, State.respond_st _ _, ?_, ?_, hout, fun h => ?_⟩
  · rw [State.constructed, State.respond_st]; rfl
  · rw [State.respond_trace (by simp [State.constructFailed_cut, hfails.1]), State.constructFailed_trace hi]
  · rw [State.respond_shift, State.constructFailed_shift h]

/-! ### All or nothing -/

/-- Answered transactions are all granted, or there is a first one that is denied. -/
theorem State.answered.accepts_or_failsAt {s : State} (h : s.answered) (n : Nat) :
    s.accepts n ∨ ∃ i < n, ∃ edges, s.failsAt i edges := by
  obtain ⟨hcut, hans⟩ := h
  induction n with
  | zero => exact .inl ⟨hcut, by simp⟩
  | succ n ih =>
    rcases ih with ⟨-, hoks⟩ | ⟨i, hi, hfails⟩
    · have htake := List.take_add_one (l := s.answers) (i := n)
      cases hn : s.answers[n]? with
      | none => exact .inl ⟨hcut, by simpa [htake, hn] using hoks⟩
      | some a =>
        cases a with
        | ok => exact .inl ⟨hcut, by simpa [htake, hn, or_imp, forall_and] using hoks⟩
        | err edges =>
          refine .inr ⟨n, n.lt_succ_self, edges, hcut, ?_⟩
          have hlength : n < s.answers.length := (List.getElem?_eq_some_iff.mp hn).1
          rw [htake, hn, List.eq_replicate_iff.mpr ⟨List.length_take_of_le hlength.le, hoks⟩]
          rfl
        | silent => exact absurd rfl (hans _ (List.mem_of_getElem? hn))
    · exact .inr ⟨i, hi.trans n.lt_succ_self, hfails⟩

/-- A release of a rollback that answered `err` is in its trace. -/
theorem rel_err_mem_rollbackEvents {ps : PinSet} {i j : Nat} {acks : Nat → Ack} (hj : j < i) (h : acks j = .err) :
    .port (.rel (ps.toList.getD j 0)) .err ∈ rollbackEvents ps i acks := by
  have hmem : Event.port (.rel (ps.toList.getD j 0)) .err ∈
      (List.range i).map (fun j => Event.port (.rel (ps.toList.getD j 0)) (acks j)) :=
    List.mem_map.mpr ⟨j, List.mem_range.mpr hj, by rw [h]⟩
  simp only [rollbackEvents, List.mem_append, hmem, or_true, true_or]

/-- Settles O15: rejected, CONSTRUCT takes no pin; with four granted `Cfg` it has all of them; after a denied one it has
given up those it had taken. -/
theorem constructAllOrNothing : Obligations.ConstructAllOrNothing := by
  intro ps ns s hanswered hready hnone
  by_cases hserved : s.st = .uninitialized ∧ 0 ≤ ns
  case neg =>
    obtain ⟨r, hexec⟩ := execConstruct_of_rejected (ps := ps) hserved
    exact ⟨_, [.respond r], hexec, State.respond_trace (by simp [hanswered.1]) r,
      .inr ⟨by simpa using hready, fun _ => by simpa using hnone⟩⟩
  obtain ⟨hst, hn⟩ := hserved
  rcases hanswered.accepts_or_failsAt 4 with haccepts | ⟨i, hi, edges, hfails⟩
  · obtain ⟨hexec, hend⟩ := execConstruct_ok (ps := ps) (m := 0) hst hn haccepts
    refine ⟨_, constructEvents ps ++ [.respond .ok], hexec, ?_, .inl ⟨State.respond_st _ _, fun p hp => ?_⟩⟩
    · rw [State.respond_trace (by rw [hend.cut]; nofun), State.enter_trace, State.acquired_trace, State.adopt_trace,
        List.append_assoc, constructEvents]
    · rw [State.respond_owned, State.enter_owned, State.acquired_owned, if_pos hp]
  · have hexec := execConstruct_failsAt (ps := ps) hst hn hi hfails
      (fun a ha => hanswered.2 a (List.mem_of_mem_drop (List.mem_of_mem_take ha)))
    refine ⟨_, rollbackEvents ps i (fun j => s.ackAt (i + 1 + j)) ++ [.respond (.pinSetupFailed i)], hexec, ?_,
      .inr ⟨by rw [State.respond_st]; nofun, fun hreleased p hp => ?_⟩⟩
    · rw [State.respond_trace (by simp [State.constructFailed_cut, hfails.1]), State.constructFailed_trace hi,
        List.append_assoc]
    · have hacks : ∀ j < i, s.ackAt (i + 1 + j) = .ok := fun j hj => by
        cases hack : s.ackAt (i + 1 + j) with
        | ok => rfl
        | err => exact absurd (List.mem_append_left _ (rel_err_mem_rollbackEvents hj hack)) (hreleased _)
      rw [State.respond_owned, State.constructFailed_owned hi hacks, hnone p hp]
      split <;> rfl

end Sys2Proof.Machine

/-! ## CLEAR

What the clear strobe leaves alone however it is answered, and where it ends: with both `Set` granted, or at the one
that is denied (41_clear R140 to R144). -/

namespace Sys2Proof.Machine

/-! ### The frame -/

theorem State.settled_set_owned (s : State) (p : Nat) (l : Level) (a : Answer) (q : Nat) :
    (s.settled (.set p l) a).owned q = s.owned q := by
  cases a with
  | ok => exact s.drive_owned p l q
  | err edges => exact s.driveFailed_owned [p] edges q
  | silent => rfl

/-- On four distinct pins no write to `clear` reaches the latched outputs (20_memory R72). -/
theorem State.settled_set_clear_out {s : State} (hd : s.pin.distinct = true) (l : Level) (a : Answer) :
    (s.settled (.set s.pin.clear l) a).out = s.out := by
  cases a with
  | ok =>
    cases l with
    | low => exact (State.drive_clear_low hd).2
    | high => exact (State.drive_clear_high hd).2
  | err edges =>
    have hfailed : (s.driveFailed [s.pin.at .clear] edges).out = s.out := by
      rcases State.driveFailed_at hd .clear edges with h | h <;> rw [h] <;> rfl
    exact hfailed
  | silent => rfl

/-- What writes to the pin `clear` may have made of `s` so far (41_clear R140, R142, R144). -/
structure State.ClearedFrom (s t : State) : Prop where
  registers : t.st = s.st ∧ t.pin = s.pin ∧ t.ns = s.ns ∧ t.cap = s.cap ∧ t.dsr = s.dsr ∧ t.mask = s.mask ∧
    t.bitcnt = s.bitcnt ∧ t.acq = s.acq ∧ t.inbox = s.inbox ∧ t.cut = s.cut
  owned : ∀ p, t.owned p = s.owned p
  others : ∀ p, p ≠ s.pin.clear → t.level p = s.level p
  out : s.pin.distinct = true → t.out = s.out

theorem State.ClearedFrom.refl (s : State) : s.ClearedFrom s where
  registers := by simp
  owned _ := rfl
  others _ _ := rfl
  out _ := rfl

theorem State.ClearedFrom.pin {s u : State} (h : s.ClearedFrom u) : u.pin = s.pin := h.registers.2.1

theorem State.ClearedFrom.settled {s u : State} (h : s.ClearedFrom u) (l : Level) (a : Answer) :
    s.ClearedFrom (u.settled (.set s.pin.clear l) a) where
  registers := by simpa using h.registers
  owned p := (u.settled_set_owned _ l a p).trans (h.owned p)
  others p hp :=
    (u.settled_other (.set s.pin.clear l) a p (by simpa [Transaction.pins] using hp)).2.trans (h.others p hp)
  out hd := by
    rw [← h.pin] at hd ⊢
    exact (State.settled_set_clear_out hd l a).trans (h.out (h.pin ▸ hd))

theorem State.ClearedFrom.respond {s u : State} (h : s.ClearedFrom u) (r : Response) : s.ClearedFrom (u.respond r) where
  registers := by simpa using h.registers
  owned := by simpa using h.owned
  others := by simpa using h.others
  out := by simpa using h.out

theorem State.clearedFrom_keeps (s : State) : Keeps s.ClearedFrom (fun x => ∃ l, x = .set s.pin.clear l) where
  granted u _ hx h := by
    obtain ⟨l, rfl⟩ := hx
    exact { h.settled l .ok with }
  denied u _ edges hx h := by
    obtain ⟨l, rfl⟩ := hx
    exact { h.settled l (.err edges) with }
  dropped _ h := { h with }
  waited _ h := { h with }
  logged _ _ h := { h with }

theorem State.clearedFrom_execClear {s t : State} (h : exec .clear s = .next t) : s.ClearedFrom t :=
  s.clearedFrom_keeps.execClear (fun _ r hu => hu.respond r) (fun l => ⟨l, rfl⟩) (.refl s) h

/-- Settles O22: each `Set` on `clear` keeps the frame, granted or denied. -/
theorem clearFrame : Obligations.ClearFrame := by
  intro s t h
  obtain ⟨⟨hst, hpin, hns, hcap, hdsr, hmask, hbitcnt, hacq, hinbox, hcut⟩, howned, hothers, hout⟩ :=
    State.clearedFrom_execClear h
  exact ⟨hst, hpin, hns, hcap, hdsr, hmask, hbitcnt, hacq, hinbox, hcut, howned, hothers, hout⟩

/-! ### Both answers `ok` -/

theorem State.granted_set_level (s : State) (p : Nat) (l : Level) (q : Nat) :
    (s.granted (.set p l)).level q = if q = p then some l else s.level q := by
  rw [State.granted_level, State.settled, State.drive_level]

theorem State.performed_clearActs_level (s : State) (p q : Nat) :
    (s.performed (clearActs p)).level q = if q = p then some .high else s.level q := by
  simp only [clearActs, State.performed, State.granted_set_level, State.record_level]
  split <;> rfl

/-- The `LOW` level zeroes the shift storage, and the `HIGH` one leaves it (41_clear R142). -/
theorem State.performed_clearActs_shift {s : State} (hd : s.pin.distinct = true) :
    (s.performed (clearActs s.pin.clear)).shift = some 0 := by
  have hlow : (s.granted (.set s.pin.clear .low)).shift = some 0 :=
    (s.granted_set_shift _ _).trans (State.drive_clear_low hd).1
  have hhigh : ∀ u : State, u.pin = s.pin → (u.granted (.set s.pin.clear .high)).shift = u.shift := fun u hu => by
    rw [State.granted_set_shift, ← hu, (State.drive_clear_high (hu ▸ hd)).1]
  simp only [clearActs, State.performed]
  rw [hhigh _ (by simp), State.record_shift, hlow]

/-- Settles O19: the strobe gives the trace, the level of `clear` and `SHIFT`; the rest is `clearFrame`. -/
theorem clearSucceeds : Obligations.ClearSucceeds := by
  intro s hst haccepts
  obtain ⟨hexec, hend⟩ := execClear_ok (n := 0) hst haccepts
  obtain ⟨hst', hpin, hns, hcap, hdsr, hmask, hbitcnt, hacq, hinbox, hcut, howned, -, hout⟩ := clearFrame s _ hexec
  refine ⟨_, hexec, hst'.trans hst, ?_, fun p => ⟨howned p, ?_⟩, fun hd => ⟨?_, hout hd⟩, hpin, hns, hcap, hdsr,
    hmask, hbitcnt, hacq, ?_, ?_, hinbox, hcut.trans haccepts.cut⟩
  · rw [State.respond_trace (by simp [hend.cut]), State.performed_trace, List.append_assoc]
    rfl
  · rw [State.respond_level, State.performed_clearActs_level]
  · rw [State.respond_shift, State.performed_clearActs_shift hd]
  · rw [State.respond_seq, State.performed_seq]
    rfl
  · rw [State.respond_answers, State.performed_answers]
    rfl

/-- Settles O21: the first CLEAR leaves two `ok` answers, so the second succeeds too, and finds `SHIFT`, `OUT` and the
level of `clear` as it leaves them. -/
theorem clearIsIdempotent : Obligations.ClearIsIdempotent := by
  intro s hst hd haccepts
  obtain ⟨t, hexec, hst', htrace, hpins, hload, hpin, -, -, -, -, -, -, -, hanswers, -, hcut⟩ :=
    clearSucceeds s hst (haccepts.mono (by omega))
  have haccepts' : t.accepts 2 := haccepts.drop (m := 2) (hcut.trans haccepts.cut.symm) hanswers
  obtain ⟨u, hexec', hst'', htrace', hpins', hload', hpin', hns', hcap', -⟩ := clearSucceeds t hst' haccepts'
  obtain ⟨hshift, hout⟩ := hload hd
  obtain ⟨hshift', hout'⟩ := hload' (hpin ▸ hd)
  have hlevel : t.level t.pin.clear = some .high := by rw [hpin, (hpins _).2, if_pos rfl]
  refine ⟨t, u, hexec, hexec', hst', hshift, hout, hpin ▸ hlevel, hst''.trans hst'.symm, hpin', hns', hcap',
    hshift'.trans hshift.symm, hout', fun p => ⟨(hpins' p).1, ?_⟩, ?_, ?_⟩
  · rw [(hpins' p).2]
    split
    · next hp => rw [hp, hlevel]
    · rfl
  · rw [htrace, List.append_assoc]
    rfl
  · rw [htrace', hpin, List.append_assoc]
    rfl

/-! ### A denied transaction -/

/-- The state in which transaction number `k` (from 0) of an event list has been denied, those before it granted. -/
def State.stoppedAt : Nat → List Role → List Act → State → State
  | _, _, [], s => s
  | 0, edges, .port x :: _, s => s.denied x edges
  | k + 1, edges, .port x :: as, s => State.stoppedAt k edges as (s.granted x)
  | k, edges, .wait :: as, s => State.stoppedAt k edges as (s.record .wait)

/-- An event list stops at its first denied transaction (20_memory R80). -/
theorem State.perform_failsAt {as : List Act} {k : Nat} {edges : List Role} {s : State} (hk : k < portCount as)
    (h : s.failsAt k edges) : s.perform as = .failed (s.stoppedAt k edges as) := by
  induction as generalizing s k with
  | nil => cases hk
  | cons a as ih =>
    cases a with
    | wait =>
      rw [State.perform, State.act, State.emit_of_cut_none h.1, Progress.ok_andThen, ih hk (s := s.record .wait) h,
        State.stoppedAt]
    | port x =>
      cases k with
      | zero => rw [State.perform, State.act, h.issue]; rfl
      | succ k =>
        obtain ⟨hissue, hrest⟩ := h.issue_succ x
        rw [State.perform, State.act, hissue, Progress.ok_andThen, ih (by simpa [portCount] using hk) hrest,
          State.stoppedAt]

theorem State.stoppedAt_trace {as : List Act} {k : Nat} {edges : List Role} {s : State} (hk : k < portCount as) :
    (s.stoppedAt k edges as).trace = s.trace ++ failAt k (okEvents as) := by
  induction as generalizing s k with
  | nil => cases hk
  | cons a as ih =>
    cases a with
    | wait => rw [State.stoppedAt, ih hk]; simp [okEvents, failAt]
    | port x =>
      cases k with
      | zero => simp [State.stoppedAt, okEvents, failAt]
      | succ k => rw [State.stoppedAt, ih (by simpa [portCount] using hk)]; simp [okEvents, failAt]

theorem State.denied_set_level (s : State) (p : Nat) (l : Level) (edges : List Role) :
    (s.denied (.set p l) edges).level p = none := by
  rw [State.denied_level, State.settled, State.driveFailed_level, if_pos (by simp)]

/-- Whichever `Set` of the strobe is denied, it is on its one pin (20_memory R53). -/
theorem State.stoppedAt_clearActs_level {k : Nat} (hk : k < 2) (s : State) (p : Nat) (edges : List Role) :
    (s.stoppedAt k edges (clearActs p)).level p = none := by
  match k, hk with
  | 0, _ => exact State.denied_set_level _ p .low edges
  | 1, _ => exact State.denied_set_level _ p .high edges

/-- A CLEAR one of whose `Set` is denied ends there with `PinFault` (41_clear R144). -/
theorem execClear_failsAt {k : Nat} {edges : List Role} {s : State} (hk : k < 2) (hst : s.st = .ready)
    (h : s.failsAt k edges) :
    ∃ t, exec .clear s = .next t ∧ t.st = .ready ∧ t.level s.pin.clear = none ∧
      t.trace = s.trace ++ (failAt k (clearEvents s.pin.clear) ++ [.respond .pinFault]) := by
  have hexec : exec .clear s = .next ((s.stoppedAt k edges (clearActs s.pin.clear)).respond .pinFault) := by
    rw [exec, execClear, if_neg (by simp [hst]), State.clearSeq, State.perform_failsAt hk h]
    rfl
  obtain ⟨hst', -, -, -, -, -, -, -, -, hcut, -⟩ := clearFrame s _ hexec
  rw [State.respond_cut, h.1] at hcut
  refine ⟨_, hexec, hst'.trans hst, ?_, ?_⟩
  · rw [State.respond_level, State.stoppedAt_clearActs_level hk]
  · rw [State.respond_trace (by simp [hcut]), State.stoppedAt_trace hk, List.append_assoc]
    rfl

/-- Settles O20: `Ready` is the only state that serves CLEAR; there it succeeds, or stops at the first or the second
`Set`. -/
theorem clearEventsByCase : Obligations.ClearEventsByCase := by
  refine ⟨fun s hst hcut => ?_, fun s hst haccepts => ?_, fun s edges hst h => execClear_failsAt (by omega) hst h,
    fun s edges hst h => execClear_failsAt (by omega) hst h⟩
  · rw [exec_of_not_serves (by simpa [Lifecycle.serves] using hst), State.respond_of_cut_none hcut, declined]
  · obtain ⟨t, hexec, hst', htrace, -⟩ := clearSucceeds s hst haccepts
    exact ⟨t, hexec, hst', htrace⟩

end Sys2Proof.Machine

/-! ## WRITE

What WRITE leaves alone however it is answered; where it ends with every transaction granted, in its registers, in the
load and on the pins; and where it stops at a denied `Set` (42_write R150 to R162). -/

namespace Sys2Proof.Machine

/-! ### The frame -/

/-- What writes to pins of the PinSet, and the shifter, may have made of `s` so far (42_write R150; 20_memory R54). -/
structure State.WrittenFrom (s t : State) : Prop where
  registers : t.st = s.st ∧ t.pin = s.pin ∧ t.ns = s.ns ∧ t.cap = s.cap ∧ t.acq = s.acq ∧ t.inbox = s.inbox ∧
    t.cut = s.cut
  owned : ∀ p, t.owned p = s.owned p
  others : ∀ p, p ∉ s.pin.toList → t.level p = s.level p

theorem State.WrittenFrom.pin {s u : State} (h : s.WrittenFrom u) : u.pin = s.pin := h.registers.2.1

theorem State.WrittenFrom.settled {s u : State} (h : s.WrittenFrom u) (r : Role) (l : Level) (a : Answer) :
    s.WrittenFrom (u.settled (.set (s.pin.at r) l) a) where
  registers := by simpa using h.registers
  owned p := (u.settled_set_owned _ l a p).trans (h.owned p)
  others p hp := by
    have hne : p ∉ (Transaction.set (s.pin.at r) l).pins := fun hmem =>
      hp (List.mem_singleton.mp hmem ▸ s.pin.at_mem r)
    exact (u.settled_other _ a p hne).2.trans (h.others p hp)

theorem State.writtenFrom_keeps (s : State) :
    Keeps s.WrittenFrom (fun x => ∃ r l, x = .set (s.pin.at r) l) where
  granted u _ hx h := by
    obtain ⟨r, l, rfl⟩ := hx
    exact { h.settled r l .ok with }
  denied u _ edges hx h := by
    obtain ⟨r, l, rfl⟩ := hx
    exact { h.settled r l (.err edges) with }
  dropped _ h := { h with }
  waited _ h := { h with }
  logged _ _ h := { h with }

theorem State.writtenFrom_execWrite {data : Nat} {s t : State} (h : exec (.write data) s = .next t) :
    s.WrittenFrom t := by
  refine s.writtenFrom_keeps.execWrite (fun u hu r l => ⟨r, l, by rw [hu.pin]⟩) (fun u r hu => ?_)
    (fun _ _ hu => { hu with }) (fun _ hu => { hu with }) ?_ h
  · exact ⟨by simpa using hu.registers, by simpa using hu.owned, by simpa using hu.others⟩
  · exact ⟨by simp, fun _ => rfl, fun _ _ => rfl⟩

/-- Settles O32: each `Set` on a pin of the PinSet keeps the frame, granted or denied. -/
theorem writeFrame : Obligations.WriteFrame := by
  intro data s t h
  obtain ⟨⟨hst, hpin, hns, hcap, hacq, hinbox, hcut⟩, howned, hothers⟩ := State.writtenFrom_execWrite h
  exact ⟨hst, hpin, hns, hcap, hacq, hinbox, hcut, howned, hothers⟩

/-! ### Every answer `ok`: the registers and the trace -/

/-- A bit takes six events and four answers (42_write R151). -/
theorem State.sentBit_counters (s : State) :
    s.sentBit.seq = s.seq + 6 ∧ s.sentBit.answers = s.answers.drop 4 ∧ s.sentBit.bitcnt = s.bitcnt - 1 := by
  simp [State.sentBit, State.performed_seq, State.performed_answers, State.performed_registers, pulseActs, portCount]

theorem State.sentBits_counters (k : Nat) (s : State) :
    (State.sentBit^[k] s).seq = s.seq + 6 * k ∧ (State.sentBit^[k] s).answers = s.answers.drop (4 * k) ∧
      (State.sentBit^[k] s).bitcnt = s.bitcnt - k := by
  induction k with
  | zero => simp
  | succ k ih =>
    obtain ⟨hseq, hanswers, hbitcnt⟩ := ih
    obtain ⟨hseq', hanswers', hbitcnt'⟩ := (State.sentBit^[k] s).sentBit_counters
    rw [Function.iterate_succ_apply', hseq', hanswers', hbitcnt', hseq, hanswers, hbitcnt, List.drop_drop]
    exact ⟨by omega, by rw [Nat.mul_succ], by omega⟩

theorem State.written_counters (data : Nat) (s : State) :
    (s.written data).seq = s.seq + (6 * s.cap + 8) ∧ (s.written data).answers = s.answers.drop (4 * s.cap + 5) ∧
      (s.written data).bitcnt = 0 := by
  obtain ⟨hseq, hanswers, hbitcnt⟩ :=
    State.sentBits_counters s.cap ((s.performed (clearActs s.pin.clear)).loadShifter data)
  refine ⟨?_, ?_, ?_⟩
  · rw [State.written, State.performed_seq, hseq, State.loadShifter_seq, State.performed_seq]
    simp only [clearActs, pulseActs, List.length_cons, List.length_nil]
    omega
  · rw [State.written, State.performed_answers, hanswers, State.loadShifter_answers, State.performed_answers,
      List.drop_drop, List.drop_drop]
    simp only [clearActs, pulseActs, portCount]
    congr 1
    omega
  · simp [State.written, State.performed_registers, hbitcnt]

/-- Once every bit has been sent, the shifter is empty (10_state R28, R29). -/
theorem State.written_shifter {data : Nat} {s : State} (hd : data < 2 ^ s.cap) :
    (s.written data).dsr = 0 ∧ (s.written data).mask = msbMask s.cap := by
  obtain ⟨⟨-, -, hdsr, hmask⟩, -⟩ := (State.shifting_loadShifter hd).sentBits s.cap le_rfl
  simp [State.written, State.performed_registers, hdsr, hmask, Nat.shiftLeft_eq]

/-- Settles O23: the shifter's own registers as the bits left them; the rest is `writeFrame`. -/
theorem writeSucceeds : Obligations.WriteSucceeds := by
  intro data s hst hd haccepts
  obtain ⟨hexec, hend⟩ := execWrite_ok (n := 0) hst hd (haccepts.mono (by omega))
  obtain ⟨hst', hpin, hns, hcap, hacq, hinbox, hcut, howned, -⟩ := writeFrame data s _ hexec
  obtain ⟨hseq, hanswers, hbitcnt⟩ := s.written_counters data
  obtain ⟨hdsr, hmask⟩ := State.written_shifter hd
  refine ⟨_, hexec, hst'.trans hst, ?_, ?_, ?_, ?_, ?_, hpin, hns, hcap, hacq, howned, ?_, hinbox,
    hcut.trans haccepts.cut⟩
  · rw [State.respond_trace (by simp [hend.cut]), State.written_trace hd]
  · rw [State.respond_seq, hseq]
  · rw [State.respond_dsr, hdsr]
  · rw [State.respond_mask, hmask, msbMask]
  · rw [State.respond_bitcnt, hbitcnt]
  · rw [State.respond_answers, hanswers]

theorem writeEvents_length (ps : PinSet) (cap data : Nat) : (writeEvents ps cap data).length = 6 * cap + 8 := by
  have hbit : ∀ k, (bitEvents ps cap data k).length = 6 := fun _ => rfl
  simp [writeEvents, clearEvents, pulseEvents, List.length_flatMap, hbit]
  omega

/-- Settles O27: the events are those of `writeSucceeds`, their kinds counted in `eventCounts_writeEvents`. -/
theorem writeCounts : Obligations.WriteCounts := by
  intro data s hst hd haccepts
  obtain ⟨t, hexec, -, htrace, -⟩ := writeSucceeds data s hst hd haccepts
  have hcounts := eventCounts_writeEvents s.pin s.cap data
  simp only [eventCounts, List.cons.injEq, and_true] at hcounts
  obtain ⟨-, hsets, -, -, hwaits⟩ := hcounts
  exact ⟨t, _, hexec, htrace, writeEvents_length _ _ _, hsets, hwaits, by rw [minDurationMs, hwaits]⟩

/-- Settles O28: `tooWide` raises the one, and `writeSucceeds` is the other. -/
theorem writeRangeCheck : Obligations.WriteRangeCheck := by
  refine ⟨fun data s hst hcut hd => ?_, fun data s hst haccepts hd => ?_⟩
  · rw [exec, execWrite, if_neg (by simp [hst]), if_pos (by simpa [tooWide] using hd), State.raise,
      State.respond_of_cut_none hcut]
  · obtain ⟨t, hexec, -, htrace, -⟩ := writeSucceeds data s hst hd haccepts
    exact ⟨t, _, hexec, htrace⟩

/-! ### Every answer `ok`: pulses and the load (44_pulse R185, R187; 20_memory R72 to R75) -/

theorem State.performed_pulseActs_level (s : State) (p q : Nat) :
    (s.performed (pulseActs p)).level q = if q = p then some .low else s.level q := by
  simp only [pulseActs, State.performed, State.granted_set_level, State.record_level]
  split <;> rfl

/-- On four distinct pins only the pin `clear` acts on the load by being driven `LOW`. -/
theorem State.drive_low_load {s : State} (hd : s.pin.distinct = true) {r : Role} (hr : r ≠ .clear) :
    (s.drive (s.pin.at r) .low).shift = s.shift ∧ (s.drive (s.pin.at r) .low).out = s.out := by
  cases r with
  | serialIn => exact State.drive_serialIn hd .low
  | shiftClock => exact State.drive_shiftClock_low hd
  | latchClock => exact State.drive_latchClock_low hd
  | clear => exact absurd rfl hr

/-- Where a pulse on the pin of role `r` has been driven `LOW` and settled: its clock is about to rise. -/
def State.lowered (r : Role) (s : State) : State := (s.granted (.set (s.pin.at r) .low)).record .wait

section Lowered

variable {s : State} {r : Role}

@[simp] theorem State.lowered_pin (s : State) (r : Role) : (s.lowered r).pin = s.pin := by simp [State.lowered]

@[simp] theorem State.lowered_cap (s : State) (r : Role) : (s.lowered r).cap = s.cap := by simp [State.lowered]

theorem State.lowered_level (s : State) (r : Role) (q : Nat) :
    (s.lowered r).level q = if q = s.pin.at r then some .low else s.level q := by
  rw [State.lowered, State.record_level, State.granted_set_level]

theorem State.lowered_load (hd : s.pin.distinct = true) (hr : r ≠ .clear) :
    (s.lowered r).shift = s.shift ∧ (s.lowered r).out = s.out := by
  obtain ⟨hshift, hout⟩ := State.drive_low_load hd hr
  rw [State.lowered, State.record_shift, State.record_out, State.granted_set_shift, State.granted_set_out]
  exact ⟨hshift, hout⟩

/-- A pulse does to the load what its rising edge does (44_pulse R187). -/
theorem State.performed_pulseActs_load (hd : s.pin.distinct = true) (hr : r ≠ .clear) :
    (s.performed (pulseActs (s.pin.at r))).shift = ((s.lowered r).drive (s.pin.at r) .high).shift ∧
      (s.performed (pulseActs (s.pin.at r))).out = ((s.lowered r).drive (s.pin.at r) .high).out := by
  have hfall : ∀ u : State, u.pin = s.pin → (u.granted (.set (s.pin.at r) .low)).shift = u.shift ∧
      (u.granted (.set (s.pin.at r) .low)).out = u.out := fun u hu => by
    rw [State.granted_set_shift, State.granted_set_out, ← hu]
    exact State.drive_low_load (hu ▸ hd) hr
  have hpulse : s.performed (pulseActs (s.pin.at r)) = State.granted
      (((s.lowered r).granted (.set (s.pin.at r) .high)).record .wait) (.set (s.pin.at r) .low) := rfl
  obtain ⟨hshift, hout⟩ := hfall (((s.lowered r).granted (.set (s.pin.at r) .high)).record .wait) (by simp)
  rw [hpulse, hshift, hout, State.record_shift, State.record_out, State.granted_set_shift, State.granted_set_out]
  exact ⟨rfl, rfl⟩

end Lowered

/-- A pulse of the shift clock shifts one bit in (20_memory R73). -/
theorem State.performed_pulse_shiftClock {s : State} (hd : s.pin.distinct = true) {v : Nat} {l : Level}
    (hclear : s.level s.pin.clear = some .high) (hserial : s.level s.pin.serialIn = some l) (hshift : s.shift = some v) :
    (s.performed (pulseActs (s.pin.at .shiftClock))).shift = some (((v <<< 1) + bitOfLevel l) % 2 ^ s.cap) ∧
      (s.performed (pulseActs (s.pin.at .shiftClock))).out = s.out := by
  obtain ⟨hshift', hout'⟩ := State.performed_pulseActs_load (r := .shiftClock) hd (by decide)
  obtain ⟨hv, ho⟩ := State.lowered_load (r := .shiftClock) hd (by decide)
  obtain ⟨hne, -, -, -, hne', -⟩ := (PinSet.distinct_iff _).mp hd
  have hrise := State.drive_shiftClock_rise (s := s.lowered .shiftClock) (v := v) (l := l) (by simpa using hd)
    (by simp [State.lowered_level, PinSet.at]) (by simp [State.lowered_level, PinSet.at, hne'.symm, hclear])
    (by simp [State.lowered_level, PinSet.at, hne, hserial]) (hv.trans hshift)
  rw [State.lowered_pin, State.lowered_cap, ho] at hrise
  exact ⟨hshift'.trans hrise.1, hout'.trans hrise.2⟩

/-- A pulse of the latch clock copies the shift storage to the outputs (20_memory R74). -/
theorem State.performed_pulse_latchClock {s : State} (hd : s.pin.distinct = true) :
    (s.performed (pulseActs (s.pin.at .latchClock))).shift = s.shift ∧
      (s.performed (pulseActs (s.pin.at .latchClock))).out = s.shift := by
  obtain ⟨hshift', hout'⟩ := State.performed_pulseActs_load (r := .latchClock) hd (by decide)
  obtain ⟨hv, -⟩ := State.lowered_load (r := .latchClock) hd (by decide)
  have hrise := State.drive_latchClock_rise (s := s.lowered .latchClock) (by simpa using hd)
    (by simp [State.lowered_level, PinSet.at])
  rw [State.lowered_pin, hv] at hrise
  exact ⟨hshift'.trans hrise.1, hout'.trans hrise.2⟩

/-! ### The load on the way (42_write R154, R158) -/

/-- Shifting in the bit below the top bits of a value gives one top bit more. -/
theorem shiftRight_succ_shiftIn (data m : Nat) :
    ((data >>> (m + 1)) <<< 1) + bitOfLevel (levelOfBit (data.testBit m)) = data >>> m := by
  have hbit : bitOfLevel (levelOfBit (data.testBit m)) = (data >>> m) % 2 := by
    rw [Nat.testBit_eq_decide_div_mod_eq, ← Nat.shiftRight_eq_div_pow]
    rcases Nat.mod_two_eq_zero_or_one (data >>> m) with h | h <;> simp [h, levelOfBit, bitOfLevel]
  rw [hbit, Nat.shiftRight_succ, Nat.shiftLeft_eq]
  omega

/-- The load on the way: after `k` bits of `data` have been sent `SHIFT` holds the top `k` bits, and the outputs are
still `out`. -/
structure State.HoldsTopBits (ps : PinSet) (cap data k : Nat) (out : Option Nat) (s : State) : Prop
    extends s.Shifting ps cap data k where
  cleared : s.level ps.clear = some .high
  shift : s.shift = some (data >>> (cap - k))
  out : s.out = out

section HoldsTopBits

variable {ps : PinSet} {cap data k : Nat} {out : Option Nat} {s : State}

/-- The bit to be sent next is the one at place `k` from the most significant (42_write R151). -/
theorem State.Shifting.maskedBit (h : s.Shifting ps cap data k) (hk : k < cap) :
    Machine.maskedBit s.dsr s.mask = data.testBit (cap - 1 - k) := by
  rw [h.dsr, h.mask, maskedBit_shifted data cap k hk]

theorem State.sentBit_level (s : State) (q : Nat) :
    s.sentBit.level q = if q = s.pin.shiftClock then some .low
      else if q = s.pin.serialIn then some (levelOfBit (Machine.maskedBit s.dsr s.mask)) else s.level q := by
  rw [State.sentBit, State.nextBit_level, State.performed_pulseActs_level, State.granted_set_level]
  rfl

theorem State.sentBit_load {v : Nat} (hd : s.pin.distinct = true) (hclear : s.level s.pin.clear = some .high)
    (hshift : s.shift = some v) :
    s.sentBit.shift = some (((v <<< 1) + bitOfLevel (levelOfBit (Machine.maskedBit s.dsr s.mask))) % 2 ^ s.cap) ∧
      s.sentBit.out = s.out := by
  obtain ⟨-, -, hne, -⟩ := (PinSet.distinct_iff _).mp hd
  obtain ⟨hv, ho⟩ := State.drive_serialIn hd (levelOfBit (Machine.maskedBit s.dsr s.mask))
  have hpulse := State.performed_pulse_shiftClock (v := v)
    (s := s.granted (.set s.pin.serialIn (levelOfBit (Machine.maskedBit s.dsr s.mask)))) (by simpa using hd)
    (by simp [State.granted_set_level, hne.symm, hclear]) (by rw [State.granted_pin, State.granted_set_level, if_pos rfl])
    (by rw [State.granted_set_shift, hv, hshift])
  rw [State.granted_pin, State.granted_cap, State.granted_set_out, ho] at hpulse
  rwa [State.sentBit, State.nextBit_shift, State.nextBit_out]

theorem State.HoldsTopBits.sentBit (h : s.HoldsTopBits ps cap data k out) (hd : ps.distinct = true)
    (hdata : data < 2 ^ cap) (hk : k < cap) : s.sentBit.HoldsTopBits ps cap data (k + 1) out := by
  obtain ⟨hshifting, hcleared, hshift, hout⟩ := h
  obtain ⟨-, -, hne, -, hne', -⟩ := (PinSet.distinct_iff _).mp hd
  have hpin := hshifting.pin
  obtain ⟨hshift', hout'⟩ := State.sentBit_load (hpin ▸ hd) (hpin ▸ hcleared) hshift
  refine { hshifting.sentBit with cleared := ?_, shift := ?_, out := hout'.trans hout }
  · rw [State.sentBit_level, hpin, if_neg hne'.symm, if_neg hne.symm, hcleared]
  · have hnext : cap - k = cap - 1 - k + 1 := by omega
    have hlast : cap - (k + 1) = cap - 1 - k := by omega
    rw [hshift', hshifting.maskedBit hk, hshifting.capacity, hnext, shiftRight_succ_shiftIn, hlast,
      Nat.mod_eq_of_lt ((data.shiftRight_le _).trans_lt hdata)]

theorem State.HoldsTopBits.sentBits (h : s.HoldsTopBits ps cap data 0 out) (hd : ps.distinct = true)
    (hdata : data < 2 ^ cap) (hk : k ≤ cap) : (State.sentBit^[k] s).HoldsTopBits ps cap data k out := by
  induction k with
  | zero => exact h
  | succ k ih =>
    rw [Function.iterate_succ_apply']
    exact (ih (by omega)).sentBit hd hdata (by omega)

end HoldsTopBits

theorem State.performed_clearActs_out {s : State} (hd : s.pin.distinct = true) :
    (s.performed (clearActs s.pin.clear)).out = s.out := by
  have hset : ∀ (u : State) l, u.pin = s.pin → (u.granted (.set s.pin.clear l)).out = u.out := fun u l hu => by
    rw [State.granted_out, ← hu, State.settled_set_clear_out (hu ▸ hd)]
  simp only [clearActs, State.performed]
  rw [hset _ _ (by simp), State.record_out, hset _ _ rfl]

/-- After the clear strobe `SHIFT` is 0: none of `data` is in the load. -/
theorem State.holdsTopBits_loadShifter {data : Nat} {s : State} (hd : s.pin.distinct = true) (hdata : data < 2 ^ s.cap) :
    ((s.performed (clearActs s.pin.clear)).loadShifter data).HoldsTopBits s.pin s.cap data 0 s.out where
  toShifting := State.shifting_loadShifter hdata
  cleared := by rw [State.loadShifter_level, State.performed_clearActs_level, if_pos rfl]
  shift := by
    rw [State.loadShifter_shift, State.performed_clearActs_shift hd, Nat.sub_zero,
      Nat.shiftRight_eq_zero _ _ hdata]
  out := by rw [State.loadShifter_out, State.performed_clearActs_out hd]

/-- Settles O25: `State.HoldsTopBits` after `k + 1` bits. -/
theorem shiftHoldsTopBits : Obligations.ShiftHoldsTopBits := by
  intro data k s hd hdata hk haccepts
  obtain ⟨hclear, hrest⟩ := State.clearSeq_ok (n := 0 + 4 * (k + 1)) (haccepts.mono (by omega))
  obtain ⟨hbits, -⟩ := State.sendBits_ok (k + 1) (hrest.loadShifter data)
  have hload := (State.holdsTopBits_loadShifter hd hdata).sentBits hd hdata hk
  refine ⟨_, _, hclear, hbits, State.performed_clearActs_shift hd, ?_, hload.out, hload.dsr⟩
  rw [hload.shift, Nat.sub_sub, Nat.add_comm 1 k]

theorem State.written_load {data : Nat} {s : State} (hd : s.pin.distinct = true) (hdata : data < 2 ^ s.cap) :
    (s.written data).shift = some data ∧ (s.written data).out = some data := by
  have hload := (State.holdsTopBits_loadShifter hd hdata).sentBits hd hdata le_rfl
  obtain ⟨hshift, hout⟩ := State.performed_pulse_latchClock (hload.pin ▸ hd)
  rw [hload.pin, hload.shift, Nat.sub_self, Nat.shiftRight_zero] at hshift hout
  exact ⟨hshift, hout⟩

/-- Settles O24: all of `data` has been shifted in when the latch pulse copies `SHIFT` to `OUT`. -/
theorem writeLatchesData : Obligations.WriteLatchesData := by
  intro data s hst hd hdata haccepts
  obtain ⟨hexec, -⟩ := execWrite_ok (n := 0) hst hdata (haccepts.mono (by omega))
  obtain ⟨hshift, hout⟩ := State.written_load hd hdata
  exact ⟨_, hexec, (State.respond_shift _ _).trans hshift, (State.respond_out _ _).trans hout⟩

/-- Settles O29: the first WRITE leaves the answers and the registers `writeSucceeds` and `writeLatchesData` need, and
these ask nothing of the load. -/
theorem writesAreIndependent : Obligations.WritesAreIndependent := by
  intro first second s hst hd hfirst hsecond haccepts
  obtain ⟨t, hexec, hst', -, -, -, -, -, hpin, -, hcap, -, -, hanswers, -, hcut⟩ :=
    writeSucceeds first s hst hfirst (haccepts.mono (by omega))
  have haccepts' : t.accepts (4 * t.cap + 5) := by
    rw [hcap]
    exact State.accepts.drop (m := 4 * s.cap + 5) (haccepts.mono (by omega)) (hcut.trans haccepts.cut.symm) hanswers
  rw [← hcap] at hsecond
  obtain ⟨u, hexec', -, htrace, -⟩ := writeSucceeds second t hst' hsecond haccepts'
  obtain ⟨u', hexec'', hshift, hout⟩ := writeLatchesData second t hst' (hpin ▸ hd) hsecond haccepts'
  obtain rfl : u = u' := by simpa using hexec'.symm.trans hexec''
  rw [hpin, hcap] at htrace
  exact ⟨t, u, hexec, hexec', hshift, hout, htrace⟩

/-! ### Every answer `ok`: the levels -/

theorem State.written_level (data : Nat) (s : State) (q : Nat) :
    (s.written data).level q = if q = s.pin.latchClock then some .low
      else (State.sentBit^[s.cap] ((s.performed (clearActs s.pin.clear)).loadShifter data)).level q := by
  rw [State.written, State.performed_pulseActs_level]
  rfl

/-- The last bit sent is bit 0, and the shift clock is `LOW` after it (42_write R157). -/
theorem State.sentBits_level_last {ps : PinSet} {cap data : Nat} {s : State} (h : s.Shifting ps cap data 0)
    (hcap : 0 < cap) (q : Nat) :
    (State.sentBit^[cap] s).level q = if q = ps.shiftClock then some .low
      else if q = ps.serialIn then some (levelOfBit (data.testBit 0)) else (State.sentBit^[cap - 1] s).level q := by
  obtain ⟨n, rfl⟩ := Nat.exists_eq_add_one.mpr hcap
  obtain ⟨hshifting, -⟩ := h.sentBits n n.le_succ
  rw [Function.iterate_succ_apply', State.sentBit_level, hshifting.pin, hshifting.maskedBit n.lt_succ_self]
  simp

/-- Settles O26: `clear` stays as the strobe left it, the last bit leaves `serial_in` and the shift clock, the latch
pulse its own pin; `writeFrame` is the rest. -/
theorem writeLeavesLevels : Obligations.WriteLeavesLevels := by
  intro data s hst hd hcap hdata haccepts
  obtain ⟨hexec, -⟩ := execWrite_ok (n := 0) hst hdata (haccepts.mono (by omega))
  obtain ⟨-, -, -, -, -, -, -, -, hothers⟩ := writeFrame data s _ hexec
  obtain ⟨hne, hne', -, hne'', -, hne'''⟩ := (PinSet.distinct_iff _).mp hd
  have hload := (State.holdsTopBits_loadShifter hd hdata).sentBits hd hdata le_rfl
  have hlast := State.sentBits_level_last (State.shifting_loadShifter (s := s) hdata) hcap
  refine ⟨_, hexec, ?_, ?_, ?_, ?_, hothers⟩ <;> rw [State.respond_level, State.written_level]
  · rw [if_neg hne'''.symm, hload.cleared]
  · rw [if_neg hne'', hlast, if_pos rfl]
  · rw [if_pos rfl]
  · rw [if_neg hne', hlast, if_neg hne, if_pos rfl]

/-! ### A denied `Set` (42_write R160; 20_memory R53) -/

theorem failAt_append_of_lt {k : Nat} {es : List Event} (h : k < es.countP Event.isPort) (fs : List Event) :
    failAt k (es ++ fs) = failAt k es := by
  induction es generalizing k with
  | nil => cases h
  | cons e es ih =>
    cases e with
    | port x a =>
      cases k with
      | zero => rfl
      | succ k =>
        rw [List.countP_cons_of_pos rfl] at h
        rw [List.cons_append, failAt, failAt, ih (by omega)]
    | wait => simpa [failAt] using ih h
    | log _ => simpa [failAt] using ih h
    | respond _ => simpa [failAt] using ih h

theorem failAt_append_add (k : Nat) (es fs : List Event) :
    failAt (es.countP Event.isPort + k) (es ++ fs) = es ++ failAt k fs := by
  induction es with
  | nil => simp
  | cons e es ih =>
    cases e with
    | port x a => rw [List.countP_cons_of_pos rfl, Nat.add_right_comm, List.cons_append, failAt, ih, List.cons_append]
    | wait => simpa [failAt, Event.isPort] using ih
    | log _ => simpa [failAt, Event.isPort] using ih
    | respond _ => simpa [failAt, Event.isPort] using ih

theorem State.failsAt.accepts {s : State} {k : Nat} {edges : List Role} (h : s.failsAt k edges) : s.accepts k := by
  refine ⟨h.1, fun a ha => ?_⟩
  have htake : s.answers.take k = List.replicate k .ok := by
    simpa [List.take_take] using congrArg (List.take k) h.2
  exact List.eq_of_mem_replicate (htake ▸ ha)

/-- The premise of a denied transaction passes on over `m` granted ones. -/
theorem State.failsAt.drop {s t : State} {m k : Nat} {edges : List Role} (h : s.failsAt (m + k) edges)
    (hc : t.cut = s.cut) (ha : t.answers = s.answers.drop m) : t.failsAt k edges := by
  refine ⟨hc.trans h.1, ?_⟩
  have htake := congrArg (List.drop m) h.2
  rw [List.drop_take, List.drop_append_of_le_length (by simp), List.drop_replicate] at htake
  rw [ha]
  simpa [Nat.add_assoc] using htake

/-- Of the events `es` from `s` on, transaction number `k` (from 0) is a `Set` that was denied; it left `v`, and its pin
without a level (20_memory R53). -/
structure State.DeniedIn (s : State) (k : Nat) (es : List Event) (v : State) : Prop where
  trace : v.trace = s.trace ++ failAt k es
  pin : ∃ p l, (failAt k es).getLast? = some (.port (.set p l) .err) ∧ v.level p = none

section DeniedIn

variable {s t v : State} {k : Nat} {es : List Event}

theorem State.DeniedIn.append (h : s.DeniedIn k es v) (hk : k < es.countP Event.isPort) (fs : List Event) :
    s.DeniedIn k (es ++ fs) v where
  trace := by rw [failAt_append_of_lt hk, h.trace]
  pin := by rw [failAt_append_of_lt hk]; exact h.pin

/-- Events that have happened before may be counted in. -/
theorem State.DeniedIn.prepend (h : t.DeniedIn k es v) {fs : List Event} (htrace : t.trace = s.trace ++ fs) :
    s.DeniedIn (fs.countP Event.isPort + k) (fs ++ es) v where
  trace := by rw [failAt_append_add, h.trace, htrace, List.append_assoc]
  pin := by
    obtain ⟨p, l, hlast, hlevel⟩ := h.pin
    exact ⟨p, l, by rw [failAt_append_add, List.getLast?_append, hlast]; rfl, hlevel⟩

end DeniedIn

/-- An event list of `Set` and settle delays stops at the `Set` that is denied. -/
theorem State.perform_deniedIn {as : List Act} (hset : ∀ x, .port x ∈ as → ∃ p l, x = .set p l) {k : Nat}
    {edges : List Role} {s : State} (hk : k < portCount as) (h : s.failsAt k edges) :
    ∃ v, s.perform as = .failed v ∧ s.DeniedIn k (okEvents as) v := by
  refine ⟨_, State.perform_failsAt hk h, State.stoppedAt_trace hk, ?_⟩
  clear h
  induction as generalizing s k with
  | nil => cases hk
  | cons a as ih =>
    have hrest : ∀ x, .port x ∈ as → ∃ p l, x = .set p l := fun x hx => hset x (List.mem_cons_of_mem a hx)
    cases a with
    | wait =>
      obtain ⟨p, l, hlast, hlevel⟩ := ih hrest hk (s := s.record .wait)
      exact ⟨p, l, by simp [okEvents, failAt, List.getLast?_cons, hlast], hlevel⟩
    | port x =>
      cases k with
      | zero =>
        obtain ⟨p, l, rfl⟩ := hset x List.mem_cons_self
        exact ⟨p, l, rfl, s.denied_set_level p l edges⟩
      | succ k =>
        obtain ⟨p, l, hlast, hlevel⟩ := ih hrest (Nat.lt_of_succ_lt_succ hk) (s := s.granted x)
        exact ⟨p, l, by simp [okEvents, failAt, List.getLast?_cons, hlast], hlevel⟩

theorem State.clearSeq_deniedIn {k : Nat} {edges : List Role} {s : State} (hk : k < 2) (h : s.failsAt k edges) :
    ∃ v, s.clearSeq = .failed v ∧ s.DeniedIn k (clearEvents s.pin.clear) v :=
  State.perform_deniedIn (as := clearActs s.pin.clear) (by simp [clearActs]) hk h

theorem State.pulse_deniedIn (r : Role) {k : Nat} {edges : List Role} {s : State} (hk : k < 3)
    (h : s.failsAt k edges) : ∃ v, State.pulse r s = .failed v ∧ s.DeniedIn k (pulseEvents (s.pin.at r)) v :=
  State.perform_deniedIn (as := pulseActs (s.pin.at r)) (by simp [pulseActs]) hk h

/-- The event list of one bit (42_write R151). -/
def State.bitActs (s : State) : List Act :=
  .port (.set s.pin.serialIn (levelOfBit (maskedBit s.dsr s.mask))) :: pulseActs (s.pin.at .shiftClock)

theorem State.sendBit_eq_perform (s : State) :
    s.sendBit = (s.perform s.bitActs).andThen (fun t => .ok t.nextBit) := by
  rw [State.sendBit, State.bitActs, State.perform, State.act]
  cases hset : s.issue (.set s.pin.serialIn (levelOfBit (maskedBit s.dsr s.mask))) with
  | ok t => rw [Progress.ok_andThen, Progress.ok_andThen, State.pulse, State.eq_granted hset, State.granted_pin]
  | failed t => rfl
  | abandoned t => rfl
  | hung => rfl

section Bits

variable {ps : PinSet} {cap data i k : Nat} {edges : List Role} {s : State}

theorem State.Shifting.sendBit_deniedIn (hs : s.Shifting ps cap data i) (hi : i < cap) (hk : k < 4)
    (h : s.failsAt k edges) : ∃ v, s.sendBit = .failed v ∧ s.DeniedIn k (bitEvents ps cap data i) v := by
  obtain ⟨v, hperform, hdenied⟩ :=
    State.perform_deniedIn (as := s.bitActs) (by simp [State.bitActs, pulseActs]) hk h
  have hevents : okEvents s.bitActs = bitEvents ps cap data i := by
    rw [State.bitActs, hs.maskedBit hi, hs.pin]
    rfl
  exact ⟨v, by rw [State.sendBit_eq_perform, hperform]; rfl, hevents ▸ hdenied⟩

/-- The bits still to be sent stop at the `Set` that is denied. -/
theorem State.Shifting.sendBits_deniedIn {n : Nat} (hs : s.Shifting ps cap data i) (hn : i + n ≤ cap) (hk : k < 4 * n)
    (h : s.failsAt k edges) :
    ∃ v, s.sendBits n = .failed v ∧ s.DeniedIn k ((List.range' i n).flatMap (bitEvents ps cap data)) v := by
  induction n generalizing s i k with
  | zero => omega
  | succ n ih =>
    rw [State.sendBits, List.range'_succ, List.flatMap_cons]
    rcases Nat.lt_or_ge k 4 with hlt | hge
    · obtain ⟨v, hbit, hdenied⟩ := hs.sendBit_deniedIn (by omega) hlt h
      exact ⟨v, by rw [hbit]; rfl, hdenied.append hlt _⟩
    · obtain ⟨j, rfl⟩ := Nat.exists_eq_add_of_le hge
      obtain ⟨hbit, hcut, -⟩ := State.sendBit_ok (n := 0) (h.accepts.mono (by omega))
      obtain ⟨-, hanswers, -⟩ := s.sentBit_counters
      obtain ⟨v, hbits, hdenied⟩ := ih hs.sentBit (by omega) (by omega) (h.drop (hcut.trans h.1.symm) hanswers)
      exact ⟨v, by rw [hbit]; exact hbits, hdenied.prepend (hs.sentBit_trace (by omega))⟩

end Bits

/-- A WRITE up to its latch pulse (42_write R151). -/
def State.shiftData (data : Nat) (s : State) : Progress :=
  (s.clearSeq.andThen (fun t => .ok (t.loadShifter data))).andThen (fun t => t.sendBits t.bitcnt)

/-- A WRITE whose value fits ends with its latch pulse, if nothing stops it before. -/
theorem execWrite_of_fits {data : Nat} {s : State} (hst : s.st = .ready) (hdata : data < 2 ^ s.cap) :
    exec (.write data) s = ((s.shiftData data).andThen (State.pulse .latchClock)).conclude .ok := by
  rw [exec, execWrite, if_neg (by simp [hst]), if_neg (by simpa [tooWide] using hdata)]
  rfl

/-- Once the clear strobe has been granted, what is left before the latch pulse is to send `CAP` bits. -/
theorem State.shiftData_of_accepts (data : Nat) {s : State} (h : s.accepts 2) :
    s.shiftData data = ((s.performed (clearActs s.pin.clear)).loadShifter data).sendBits s.cap := by
  obtain ⟨hclear, -⟩ := State.clearSeq_ok (n := 0) h
  rw [State.shiftData, hclear, Progress.ok_andThen, Progress.ok_andThen]
  simp [State.performed_registers]

section Denied

variable {data k : Nat} {edges : List Role} {s : State}

theorem countP_isPort_bits (ps : PinSet) (cap data n : Nat) :
    ((List.range n).flatMap (bitEvents ps cap data)).countP Event.isPort = 4 * n := by
  have hbit : ∀ i, (bitEvents ps cap data i).countP Event.isPort = 4 := fun _ => rfl
  simp [List.countP_flatMap, Function.comp_def, hbit, Nat.mul_comm]

/-- Before the latch pulse a WRITE stops at the `Set` that is denied. -/
theorem State.shiftData_deniedIn (hdata : data < 2 ^ s.cap) (hk : k < 4 * s.cap + 2) (h : s.failsAt k edges) :
    ∃ v, s.shiftData data = .failed v ∧
      s.DeniedIn k (clearEvents s.pin.clear ++ (List.range s.cap).flatMap (bitEvents s.pin s.cap data)) v := by
  rcases Nat.lt_or_ge k 2 with hlt | hge
  · obtain ⟨v, hclear, hdenied⟩ := State.clearSeq_deniedIn hlt h
    exact ⟨v, by rw [State.shiftData, hclear]; rfl, hdenied.append hlt _⟩
  · obtain ⟨j, rfl⟩ := Nat.exists_eq_add_of_le hge
    obtain ⟨-, hcut, -⟩ := State.clearSeq_ok (n := 0) (h.accepts.mono (by omega))
    have hfails : ((s.performed (clearActs s.pin.clear)).loadShifter data).failsAt j edges :=
      h.drop (hcut.trans h.1.symm) (State.performed_answers _ s)
    obtain ⟨v, hbits, hdenied⟩ :=
      (State.shifting_loadShifter hdata).sendBits_deniedIn (n := s.cap) (by omega) (by omega) hfails
    refine ⟨v, (State.shiftData_of_accepts data (h.accepts.mono (by omega))).trans hbits, ?_⟩
    rw [List.range_eq_range']
    exact hdenied.prepend (State.performed_trace (clearActs s.pin.clear) s)

/-- A WRITE stops with `PinFault` at the `Set` that is denied. -/
theorem execWrite_deniedIn (hst : s.st = .ready) (hdata : data < 2 ^ s.cap) (hk : k < 4 * s.cap + 5)
    (h : s.failsAt k edges) : ∃ v, exec (.write data) s = .next (v.respond .pinFault) ∧
      s.DeniedIn k (writeEvents s.pin s.cap data) v := by
  rw [execWrite_of_fits hst hdata]
  have hcount : (clearEvents s.pin.clear ++
      (List.range s.cap).flatMap (bitEvents s.pin s.cap data)).countP Event.isPort = 4 * s.cap + 2 := by
    rw [List.countP_append, countP_isPort_bits, Nat.add_comm]
    rfl
  rcases Nat.lt_or_ge k (4 * s.cap + 2) with hlt | hge
  · obtain ⟨v, hshift, hdenied⟩ := State.shiftData_deniedIn hdata hlt h
    exact ⟨v, by rw [hshift]; rfl, hdenied.append (hcount ▸ hlt) _⟩
  · obtain ⟨j, rfl⟩ := Nat.exists_eq_add_of_le hge
    obtain ⟨-, hloaded⟩ := State.clearSeq_ok (n := 4 * s.cap) (h.accepts.mono (by omega))
    obtain ⟨hbits, hcut, -⟩ := State.sendBits_ok (n := 0) s.cap ((hloaded.mono (by omega)).loadShifter data)
    have hshift := (State.shiftData_of_accepts data (h.accepts.mono (by omega))).trans hbits
    obtain ⟨hshifting, htrace⟩ := (State.shifting_loadShifter hdata).sentBits s.cap le_rfl
    obtain ⟨-, hanswers, -⟩ :=
      State.sentBits_counters s.cap ((s.performed (clearActs s.pin.clear)).loadShifter data)
    rw [State.loadShifter_answers, State.performed_answers, List.drop_drop, Nat.add_comm] at hanswers
    obtain ⟨v, hlatch, hdenied⟩ := State.pulse_deniedIn .latchClock (k := j) (by omega)
      (h.drop (hcut.trans h.1.symm) hanswers)
    rw [State.loadShifter_trace, State.performed_trace, okEvents_clearActs, List.append_assoc] at htrace
    refine ⟨v, by rw [hshift, Progress.ok_andThen, hlatch]; rfl, ?_⟩
    rw [hshifting.pin] at hdenied
    exact hcount ▸ hdenied.prepend htrace

end Denied

/-! ### The outputs before the latch pulse (20_memory R72, R73) -/

theorem State.strobe_out {r : Role} (hr : r ≠ .latchClock) (s : State) : (s.strobe r).out = s.out := by
  cases r with
  | latchClock => exact absurd rfl hr
  | serialIn | shiftClock | clear => rfl

theorem State.loadDriven_out {r : Role} (hr : r ≠ .latchClock) (s : State) (before : Option Level) (l : Level) :
    (s.loadDriven r before l).out = s.out := by
  cases r with
  | latchClock => exact absurd rfl hr
  | serialIn | clear => cases l <;> rfl
  | shiftClock => cases l <;> rcases before with _ | ⟨_ | _⟩ <;> rfl

/-- On four distinct pins only the latch clock reaches the outputs. -/
theorem State.settled_set_out {s : State} (hd : s.pin.distinct = true) {r : Role} (hr : r ≠ .latchClock) (l : Level)
    (a : Answer) : (s.settled (.set (s.pin.at r) l) a).out = s.out := by
  cases a with
  | ok => rw [State.settled, State.drive_at hd, State.loadDriven_out hr, State.setLevel_out]
  | err edges =>
    rw [State.settled]
    rcases State.driveFailed_at hd r edges with h | h
    · rw [h, State.setLevel_out]
    · rw [h, State.strobe_out hr, State.setLevel_out]
  | silent => rfl

/-- `u` has the PinSet and the outputs of `s`. -/
def State.SameOut (s u : State) : Prop := u.pin = s.pin ∧ u.out = s.out

theorem State.sameOut_keeps {s : State} (hd : s.pin.distinct = true) :
    Keeps s.SameOut (fun x => ∃ r l, r ≠ .latchClock ∧ x = .set (s.pin.at r) l) where
  granted u _ hx h := by
    obtain ⟨r, l, hr, rfl⟩ := hx
    obtain ⟨hpin, hout⟩ := h
    rw [← hpin] at hd ⊢
    exact ⟨by simp [hpin], (State.settled_set_out hd hr l .ok).trans hout⟩
  denied u _ edges hx h := by
    obtain ⟨r, l, hr, rfl⟩ := hx
    obtain ⟨hpin, hout⟩ := h
    rw [← hpin] at hd ⊢
    exact ⟨by simp [hpin], (State.settled_set_out hd hr l (.err edges)).trans hout⟩
  dropped _ h := h
  waited _ h := h
  logged _ _ h := h

theorem State.SameOut.sendBits {s u : State} (hd : s.pin.distinct = true) (h : s.SameOut u) (n : Nat) :
    (u.sendBits n).Holds s.SameOut := by
  have hkeeps := State.sameOut_keeps hd
  have hset : ∀ v : State, s.SameOut v → ∀ r ≠ .latchClock, ∀ l,
      ∃ q l', q ≠ .latchClock ∧ Transaction.set (v.pin.at r) l = .set (s.pin.at q) l' :=
    fun v hv r hr l => ⟨r, l, hr, by rw [hv.1]⟩
  induction n generalizing u with
  | zero => exact h
  | succ n ih =>
    refine Progress.Holds.andThen ?_ (fun v hv => ih hv)
    refine ((hkeeps.issue (hset u h .serialIn (by decide) _) h).andThen (fun v hv => ?_)).andThen (fun v hv => hv)
    exact hkeeps.pulse .shiftClock (hset v hv .shiftClock (by decide)) hv

theorem State.sameOut_shiftData {s : State} (hd : s.pin.distinct = true) (data : Nat) :
    (s.shiftData data).Holds s.SameOut := by
  refine Progress.Holds.andThen (Progress.Holds.andThen ?_ (fun u hu => hu)) (fun u hu => hu.sendBits hd _)
  exact (State.sameOut_keeps hd).clearSeq (fun l => ⟨.clear, l, by decide, rfl⟩) ⟨rfl, rfl⟩

/-- Settles O31: the denied `Set` ends the events; before the latch pulse no pin that is driven reaches the outputs. -/
theorem writeStopsAtPinFault : Obligations.WriteStopsAtPinFault := by
  intro data k edges s hst hdata hk h
  obtain ⟨v, hexec, htrace, q, l, hlast, hlevel⟩ := execWrite_deniedIn hst hdata hk h
  obtain ⟨hst', hpin, hns, hcap, -, -, hcut, howned, hothers⟩ := writeFrame data s _ hexec
  rw [State.respond_cut, h.1] at hcut
  refine ⟨_, hexec, hst'.trans hst, ?_, hpin, hns, hcap, howned, ⟨q, l, hlast, ?_⟩, hothers, fun hd hbefore => ?_⟩
  · rw [State.respond_trace (by simp [hcut]), htrace]
  · rw [State.respond_level, hlevel]
  · obtain ⟨w, hshift, -⟩ := State.shiftData_deniedIn hdata hbefore h
    have hsame := State.sameOut_shiftData hd data
    rw [hshift] at hsame
    rw [execWrite_of_fits hst hdata, hshift] at hexec
    rw [← Host.Outcome.next.inj hexec, State.respond_out]
    exact hsame.2

end Sys2Proof.Machine

/-! ## DESTROY

What DESTROY leaves alone however it is answered; where it ends with every transaction granted; and, as a list of steps
of which each goes on to the next, where transactions are denied (43_destroy R170 to R176). -/

namespace Sys2Proof.Machine

/-- Settles O34: `Ready` is the only state that serves DESTROY. -/
theorem destroyElsewhereDoesNothing : Obligations.DestroyElsewhereDoesNothing := by
  intro s hst hcut
  rw [exec_of_not_serves (by simpa [Lifecycle.serves] using hst), State.respond_of_cut_none hcut, declined]

/-! ### The frame -/

/-- What transactions on pins of the PinSet, and moves of `ST`, may have made of `s` so far (43_destroy R170; 20_memory
R54). -/
structure State.TornDownFrom (s t : State) : Prop where
  registers : t.pin = s.pin ∧ t.ns = s.ns ∧ t.cap = s.cap ∧ t.dsr = s.dsr ∧ t.mask = s.mask ∧ t.bitcnt = s.bitcnt ∧
    t.acq = s.acq ∧ t.inbox = s.inbox ∧ t.cut = s.cut
  others : ∀ p, p ∉ s.pin.toList → t.owned p = s.owned p ∧ t.level p = s.level p

theorem State.TornDownFrom.pin {s u : State} (h : s.TornDownFrom u) : u.pin = s.pin := h.registers.1

theorem State.TornDownFrom.settled {s u : State} (h : s.TornDownFrom u) {x : Transaction}
    (hx : ∀ p ∈ x.pins, p ∈ s.pin.toList) (a : Answer) : s.TornDownFrom (u.settled x a) where
  registers := by simpa using h.registers
  others p hp := by
    obtain ⟨howned, hlevel⟩ := u.settled_other x a p (fun hmem => hp (hx p hmem))
    obtain ⟨howned', hlevel'⟩ := h.others p hp
    exact ⟨howned.trans howned', hlevel.trans hlevel'⟩

theorem State.tornDownFrom_keeps (s : State) : Keeps s.TornDownFrom (fun x => ∀ p ∈ x.pins, p ∈ s.pin.toList) where
  granted _ _ hx h := { h.settled hx .ok with }
  denied _ _ edges hx h := { h.settled hx (.err edges) with }
  dropped _ h := { h with }
  waited _ h := { h with }
  logged _ _ h := { h with }

theorem State.tornDownFrom_execDestroy {s t : State} (h : exec .destroy s = .next t) : s.TornDownFrom t := by
  refine s.tornDownFrom_keeps.execDestroy
    (fun u hu r l => List.forall_mem_singleton.mpr (hu.pin ▸ u.pin.at_mem r)) (fun u hu p hp => hu.pin ▸ hp)
    (fun u hu p hp => List.forall_mem_singleton.mpr (hu.pin ▸ hp)) (fun u r hu => ?_) (fun _ hu => { hu with }) ?_ h
  · exact ⟨by simpa using hu.registers, by simpa using hu.others⟩
  · exact ⟨by simp, fun _ _ => ⟨rfl, rfl⟩⟩

/-- Settles O37: each transaction on pins of the PinSet keeps the frame, granted or denied. -/
theorem destroyFrame : Obligations.DestroyFrame := by
  intro s t h
  obtain ⟨⟨hpin, hns, hcap, hdsr, hmask, hbitcnt, hacq, hinbox, hcut⟩, hothers⟩ := State.tornDownFrom_execDestroy h
  exact ⟨hpin, hns, hcap, hdsr, hmask, hbitcnt, hacq, hinbox, hcut, hothers⟩

/-! ### Releases that are all granted -/

theorem relActs_cons (p : Nat) (ps : List Nat) : relActs (p :: ps) = .port (.rel p) :: relActs ps := rfl

theorem State.granted_rel_owned (s : State) (p q : Nat) :
    (s.granted (.rel p)).owned q = if q = p then some false else s.owned q := s.owned_setOwned p _ q

theorem State.granted_rel_level (s : State) (p q : Nat) : (s.granted (.rel p)).level q = s.level q :=
  s.level_setOwned p _ q

theorem State.performed_relActs_owned (ps : List Nat) (s : State) (q : Nat) :
    (s.performed (relActs ps)).owned q = if q ∈ ps then some false else s.owned q := by
  induction ps generalizing s with
  | nil => simp [relActs, State.performed]
  | cons p ps ih =>
    rw [relActs_cons, State.performed, ih, State.granted_rel_owned]
    by_cases hq : q = p <;> simp [hq]

/-- A released pin keeps the last level driven (20_memory R53). -/
theorem State.performed_relActs_level (ps : List Nat) (s : State) (q : Nat) :
    (s.performed (relActs ps)).level q = s.level q := by
  induction ps generalizing s with
  | nil => rfl
  | cons p ps ih => rw [relActs_cons, State.performed, ih, State.granted_rel_level]

/-- Releases leave the load as it was (20_memory R76). -/
theorem State.performed_relActs_load (ps : List Nat) (s : State) :
    (s.performed (relActs ps)).shift = s.shift ∧ (s.performed (relActs ps)).out = s.out := by
  induction ps generalizing s with
  | nil => exact ⟨rfl, rfl⟩
  | cons p ps ih => exact ih (s.granted (.rel p))

/-! ### Every answer `ok` -/

theorem State.granted_setM_level (s : State) (ps : List Nat) (l : Level) (q : Nat) :
    (s.granted (.setM ps l)).level q = if q ∈ ps then some l else s.level q := s.drives_level ps l q

/-- All four distinct pins driven `LOW`: `clear` is among them, and the latch clock does not rise (20_memory R77). -/
theorem State.granted_allLow_load {s : State} (hd : s.pin.distinct = true) :
    (s.granted (.setM s.pin.toList .low)).shift = some 0 ∧ (s.granted (.setM s.pin.toList .low)).out = s.out := by
  obtain ⟨hout, hshift⟩ := State.drives_low s.pin.toList hd (fun _ hp => hp)
  have hclear : s.pin.clear ∈ s.pin.toList := s.pin.at_mem .clear
  rw [if_pos hclear] at hshift
  rw [State.granted_shift, State.granted_out, State.settled]
  exact ⟨hshift, hout⟩

/-- The bulk transaction and the releases leave the pins `LOW` and not owned. -/
theorem State.performed_lowAndRelease (ps : List Nat) (s : State) {q : Nat} (hq : q ∈ ps) :
    (s.performed (.port (.setM ps .low) :: relActs ps)).level q = some .low ∧
      (s.performed (.port (.setM ps .low) :: relActs ps)).owned q = some false := by
  rw [State.performed, State.performed_relActs_owned, State.performed_relActs_level, State.granted_setM_level,
    if_pos hq, if_pos hq]
  exact ⟨rfl, rfl⟩

theorem teardownActs_eq (ps : PinSet) : teardownActs ps =
    (clearActs ps.clear ++ pulseActs ps.latchClock) ++ .port (.setM ps.toList .low) :: relActs ps.toList := rfl

/-- The strobe clears `SHIFT` and the pulse copies it to `OUT`. -/
theorem State.performed_strobes_out {s : State} (hd : s.pin.distinct = true) :
    (s.performed (clearActs s.pin.clear ++ pulseActs s.pin.latchClock)).out = some 0 := by
  have hpin : (s.performed (clearActs s.pin.clear)).pin = s.pin := by simp [State.performed_registers]
  obtain ⟨-, hlatch⟩ := State.performed_pulse_latchClock (hpin.symm ▸ hd)
  rw [State.performed_clearActs_shift hd, hpin] at hlatch
  rw [State.performed_append]
  exact hlatch

/-- After the strobes the bulk transaction clears `SHIFT` again, and no event changes `OUT` (43_destroy R176). -/
theorem State.performed_teardownActs_load {s : State} (hd : s.pin.distinct = true) :
    (s.performed (teardownActs s.pin)).shift = some 0 ∧ (s.performed (teardownActs s.pin)).out = some 0 := by
  have hpin : (s.performed (clearActs s.pin.clear ++ pulseActs s.pin.latchClock)).pin = s.pin := by
    simp [State.performed_registers]
  obtain ⟨hshift, hout⟩ := State.granted_allLow_load (hpin.symm ▸ hd)
  rw [hpin, State.performed_strobes_out hd] at hout
  rw [hpin] at hshift
  rw [teardownActs_eq, State.performed_append, State.performed]
  obtain ⟨hshift', hout'⟩ := State.performed_relActs_load s.pin.toList
    ((s.performed (clearActs s.pin.clear ++ pulseActs s.pin.latchClock)).granted (.setM s.pin.toList .low))
  exact ⟨hshift'.trans hshift, hout'.trans hout⟩

/-- Settles O33: the pins of the PinSet and the load are as the last events left them; the rest is `destroyFrame`. -/
theorem destroyTearsDown : Obligations.DestroyTearsDown := by
  intro s hst haccepts
  obtain ⟨hexec, hend⟩ := execDestroy_ok (n := 0) hst haccepts
  obtain ⟨hpin, hns, hcap, hdsr, hmask, hbitcnt, hacq, hinbox, hcut, hothers⟩ := destroyFrame s _ hexec
  have hpins : ∀ p ∈ s.pin.toList, (s.performed (teardownActs s.pin)).level p = some .low ∧
      (s.performed (teardownActs s.pin)).owned p = some false := fun p hp => by
    rw [teardownActs_eq, State.performed_append]
    exact State.performed_lowAndRelease _ _ hp
  refine ⟨_, hexec, State.respond_st _ _, ?_, ?_, ?_, fun p => ?_, fun p => ?_, fun hd => ?_, hpin, hns, hcap, hdsr,
    hmask, hbitcnt, hacq, ?_, hinbox, hcut.trans haccepts.cut⟩
  · rw [State.tornDown, State.respond_st]
    rfl
  · rw [State.respond_trace (by rw [hend.cut]; nofun), State.enter_trace, State.performed_trace,
      okEvents_teardownActs]
  · rw [State.respond_seq, State.enter_seq, State.performed_seq]
    rfl
  · split
    · next hp => rw [State.respond_owned, State.enter_owned, (hpins p hp).2]
    · next hp => exact (hothers p hp).1
  · split
    · next hp => rw [State.respond_level, State.enter_level, (hpins p hp).1]
    · next hp => exact (hothers p hp).2
  · rw [State.respond_shift, State.respond_out, State.enter_shift, State.enter_out]
    exact State.performed_teardownActs_load hd
  · rw [State.respond_answers, State.enter_answers, State.performed_answers]
    rfl

/-! ### Steps, each best effort (43_destroy R174) -/

/-- Event lists one after the other: where a transaction of one is denied, a warning is logged and the next begins. -/
def State.attempts : List (List Act) → State → Progress
  | [], s => .ok s
  | as :: steps, s => (s.perform as).orWarn.andThen (State.attempts steps)

/-- The releases of a teardown, each a step of its own. -/
def relSteps (ps : List Nat) : List (List Act) := ps.map (fun p => [.port (.rel p)])

/-- The steps that act on the load (43_destroy R171). -/
def strobeSteps (ps : PinSet) : List (List Act) := [clearActs ps.clear, pulseActs ps.latchClock]

/-- The steps of a teardown after its strobes. -/
def lowAndReleaseSteps (ps : List Nat) : List (List Act) := [.port (.setM ps .low)] :: relSteps ps

theorem relSteps_cons (p : Nat) (ps : List Nat) : relSteps (p :: ps) = [.port (.rel p)] :: relSteps ps := rfl

theorem relSteps_flatten (ps : List Nat) : (relSteps ps).flatten = relActs ps :=
  (List.flatMap_def ..).symm.trans (List.map_eq_flatMap ..).symm

theorem State.perform_singleton (s : State) (x : Transaction) : s.perform [.port x] = s.issue x := by
  rw [State.perform, State.act]
  cases s.issue x <;> rfl

theorem State.releaseWarning_eq_attempts (ps : List Nat) : State.releaseWarning ps = State.attempts (relSteps ps) := by
  induction ps with
  | nil => rfl
  | cons p ps ih =>
    funext s
    rw [State.releaseWarning, relSteps_cons, State.attempts, State.perform_singleton, ih]

theorem Progress.Holds.andThen_congr {P : State → Prop} {p : Progress} (hp : p.Holds P) {f g : State → Progress}
    (h : ∀ s, P s → f s = g s) : p.andThen f = p.andThen g := by
  cases p with
  | ok s => exact h s hp
  | failed s => rfl
  | abandoned s => rfl
  | hung => rfl

/-- No step changes the PinSet, so a teardown is a fixed list of steps. -/
theorem State.teardown_eq_attempts (s : State) : s.teardown =
    (s.attempts (strobeSteps s.pin ++ lowAndReleaseSteps s.pin.toList)).andThen (fun t => .ok (t.enter .released)) := by
  have k := s.samePersistent_lasting.toKeeps
  have hstep : ∀ as t, s.SamePersistent t → (t.perform as).orWarn.Holds s.SamePersistent :=
    fun as _ ht => k.orWarn (k.perform as (fun _ _ => trivial) ht)
  have hlatch : ∀ t, s.SamePersistent t →
      (State.pulse .latchClock t).orWarn = (t.perform (pulseActs s.pin.latchClock)).orWarn := fun t ht => by
    rw [State.pulse, ht.1, PinSet.at]
  have hlow : ∀ t, s.SamePersistent t →
      t.allLow.orWarn = (t.perform [.port (.setM s.pin.toList .low)]).orWarn := fun t ht => by
    rw [State.perform_singleton, State.allLow, ht.1]
  have hrelease : ∀ t, s.SamePersistent t →
      t.releaseWarning t.pin.toList = t.attempts (relSteps s.pin.toList) := fun t ht => by
    rw [State.releaseWarning_eq_attempts, ht.1]
  have hcleared := hstep (clearActs s.pin.clear) s ⟨rfl, rfl, rfl⟩
  have hlatched := hcleared.andThen (hstep (pulseActs s.pin.latchClock))
  have hlowered := hlatched.andThen (hstep [.port (.setM s.pin.toList .low)])
  rw [State.teardown, State.clearSeq, hcleared.andThen_congr hlatch, hlatched.andThen_congr hlow,
    hlowered.andThen_congr hrelease]
  simp only [Progress.andThen_assoc, strobeSteps, lowAndReleaseSteps, List.cons_append, List.nil_append,
    State.attempts]

/-- Where the steps run to their end, DESTROY ends `Released` with `OK`. -/
theorem execDestroy_of_attempts {s t : State} (hst : s.st = .ready)
    (h : s.attempts (strobeSteps s.pin ++ lowAndReleaseSteps s.pin.toList) = .ok t) :
    exec .destroy s = .next ((t.enter .released).respond .ok) := by
  rw [exec, execDestroy, if_pos (by simp [State.constructed, State.tornDown, hst]), State.teardown_eq_attempts, h]
  rfl

/-! ### One step -/

theorem State.attempt_ok {as : List Act} {s : State} (h : s.accepts (portCount as)) :
    (s.perform as).orWarn = .ok (s.performed as) := by
  rw [(State.perform_ok (n := 0) as (by simpa using h)).1]
  rfl

/-- The state after a step whose transaction number `k` (from 0) has been denied. -/
def State.warnedAt (k : Nat) (edges : List Role) (as : List Act) (s : State) : State :=
  (s.stoppedAt k edges as).record (.log .teardownWarning)

section WarnedAt

variable {as : List Act} {k : Nat} {edges : List Role} {s : State}

theorem State.stoppedAt_cut (k : Nat) (edges : List Role) (as : List Act) (s : State) :
    (s.stoppedAt k edges as).cut = s.cut := by
  induction as generalizing s k with
  | nil => rw [State.stoppedAt]
  | cons a as ih => cases a <;> cases k <;> simp [State.stoppedAt, ih]

theorem State.stoppedAt_answers (hk : k < portCount as) (edges : List Role) (s : State) :
    (s.stoppedAt k edges as).answers = s.answers.drop (k + 1) := by
  induction as generalizing s k with
  | nil => cases hk
  | cons a as ih =>
    cases a with
    | wait => exact ih hk _
    | port x =>
      cases k with
      | zero => simp [State.stoppedAt]
      | succ k => simp [State.stoppedAt, ih (Nat.lt_of_succ_lt_succ hk)]

theorem State.attempt_failsAt (hk : k < portCount as) (h : s.failsAt k edges) :
    (s.perform as).orWarn = .ok (s.warnedAt k edges as) := by
  rw [State.perform_failsAt hk h, Progress.orWarn, State.emit_of_cut_none ((s.stoppedAt_cut k edges as).trans h.1)]
  rfl

theorem State.warnedAt_trace (hk : k < portCount as) : (s.warnedAt k edges as).trace =
    s.trace ++ (failAt k (okEvents as) ++ [.log .teardownWarning]) := by
  rw [State.warnedAt, State.record_trace, State.stoppedAt_trace hk, List.append_assoc]

theorem State.warnedAt_cut : (s.warnedAt k edges as).cut = s.cut := s.stoppedAt_cut k edges as

theorem State.warnedAt_answers (hk : k < portCount as) :
    (s.warnedAt k edges as).answers = s.answers.drop (k + 1) := State.stoppedAt_answers hk edges s

end WarnedAt

/-! ### Any answers -/

/-- Each denied transaction is followed at once by a warning, and there is no other warning: set against each other
with one place between them, the two lists of marks are the same (43_destroy R174). -/
def WarnsEachErr (es : List Event) : Prop := false :: es.map Event.isErr = es.map Event.isWarning ++ [false]

theorem WarnsEachErr.append {es fs : List Event} (he : WarnsEachErr es) (hf : WarnsEachErr fs) :
    WarnsEachErr (es ++ fs) := by
  unfold WarnsEachErr at *
  rw [List.map_append, List.map_append, ← List.cons_append, he, List.append_assoc, List.append_assoc, ← hf]
  rfl

theorem warnsEachErr_okEvents (as : List Act) : WarnsEachErr (okEvents as) := by
  induction as with
  | nil => rfl
  | cons a as ih =>
    cases a with
    | port x => exact .append (es := [.port x .ok]) rfl ih
    | wait => exact .append (es := [.wait]) rfl ih

theorem warnsEachErr_failAt {as : List Act} {k : Nat} (hk : k < portCount as) :
    WarnsEachErr (failAt k (okEvents as) ++ [.log .teardownWarning]) := by
  induction as generalizing k with
  | nil => cases hk
  | cons a as ih =>
    cases a with
    | wait => exact .append (es := [.wait]) rfl (by cases k <;> exact ih hk)
    | port x =>
      cases k with
      | zero => rfl
      | succ k => exact .append (es := [.port x .ok]) rfl (ih (Nat.lt_of_succ_lt_succ hk))

/-- The warning marks are the error marks, moved up by one. -/
theorem WarnsEachErr.isWarning_eq {es : List Event} (h : WarnsEachErr es) (j : Nat) :
    es[j]?.any Event.isWarning = (false :: es.map Event.isErr)[j]?.getD false := by
  rw [h, List.getElem?_append]
  split
  · simp only [List.getElem?_map]
    cases es[j]? <;> rfl
  · next hj =>
    rw [List.length_map, not_lt] at hj
    cases j - (es.map Event.isWarning).length <;> simp [List.getElem?_eq_none hj]

theorem WarnsEachErr.isErr_eq {es : List Event} (h : WarnsEachErr es) (k : Nat) :
    es[k]?.any Event.isErr = es[k + 1]?.any Event.isWarning := by
  rw [h.isWarning_eq, List.getElem?_cons_succ, List.getElem?_map]
  cases es[k]? <;> rfl

theorem State.answered.drop {s t : State} {m : Nat} (h : s.answered) (hc : t.cut = s.cut)
    (ha : t.answers = s.answers.drop m) : t.answered :=
  ⟨hc.trans h.1, fun a hm => h.2 a (List.mem_of_mem_drop (ha ▸ hm))⟩

/-- However it is answered, a step goes on to the next. -/
theorem State.answered.attempt {s : State} (h : s.answered) (as : List Act) :
    ∃ t es, (s.perform as).orWarn = .ok t ∧ t.answered ∧ t.trace = s.trace ++ es ∧ WarnsEachErr es ∧
      (es = okEvents as ∨ ∃ k < portCount as, es = failAt k (okEvents as) ++ [.log .teardownWarning]) := by
  rcases h.accepts_or_failsAt (portCount as) with haccepts | ⟨k, hk, edges, hfails⟩
  · refine ⟨_, _, State.attempt_ok haccepts, h.drop ?_ (State.performed_answers as s), State.performed_trace as s,
      warnsEachErr_okEvents as, .inl rfl⟩
    simp [State.performed_registers]
  · exact ⟨_, _, State.attempt_failsAt hk hfails, h.drop State.warnedAt_cut (State.warnedAt_answers hk),
      State.warnedAt_trace hk, warnsEachErr_failAt hk, .inr ⟨k, hk, rfl⟩⟩

/-- Wherever a step is cut short, it has tried to release every pin it is to release. -/
def ReleasesAnyway (as : List Act) : Prop :=
  ∀ k < portCount as, (failAt k (okEvents as)).filterMap Event.relPin = (okEvents as).filterMap Event.relPin

theorem okEvents_append (as bs : List Act) : okEvents (as ++ bs) = okEvents as ++ okEvents bs := by
  induction as with
  | nil => rfl
  | cons a as ih => cases a <;> simp [okEvents, ih]

theorem State.answered.attempts {steps : List (List Act)} (hsteps : ∀ as ∈ steps, ReleasesAnyway as) {s : State}
    (h : s.answered) : ∃ t es, s.attempts steps = .ok t ∧ t.answered ∧ t.trace = s.trace ++ es ∧ WarnsEachErr es ∧
      es.filterMap Event.relPin = (okEvents steps.flatten).filterMap Event.relPin := by
  induction steps generalizing s with
  | nil => exact ⟨s, [], rfl, h, (List.append_nil _).symm, rfl, rfl⟩
  | cons as steps ih =>
    obtain ⟨t, es, hstep, ht, htrace, hwarns, hes⟩ := h.attempt as
    obtain ⟨u, fs, hrest, hu, htrace', hwarns', hfs⟩ := ih (fun bs hbs => hsteps bs (List.mem_cons_of_mem as hbs)) ht
    have hrel : es.filterMap Event.relPin = (okEvents as).filterMap Event.relPin := by
      rcases hes with rfl | ⟨k, hk, rfl⟩
      · rfl
      · rw [List.filterMap_append, hsteps as List.mem_cons_self k hk]
        exact List.append_nil _
    refine ⟨u, es ++ fs, ?_, hu, ?_, hwarns.append hwarns', ?_⟩
    · rw [State.attempts, hstep, Progress.ok_andThen, hrest]
    · rw [htrace', htrace, List.append_assoc]
    · rw [List.flatten_cons, okEvents_append, List.filterMap_append, List.filterMap_append, hrel, hfs]

/-- The steps of a teardown that can be cut short before their last transaction release nothing. -/
theorem releasesAnyway_of_mem_teardown {ps : PinSet} {as : List Act}
    (h : as ∈ strobeSteps ps ++ lowAndReleaseSteps ps.toList) : ReleasesAnyway as := by
  have hone : ∀ x, ReleasesAnyway [.port x] := fun x k hk => by
    obtain rfl : k = 0 := Nat.lt_one_iff.mp hk
    cases x <;> rfl
  simp only [strobeSteps, lowAndReleaseSteps, relSteps, List.mem_append, List.mem_cons, List.mem_map,
    List.not_mem_nil, or_false] at h
  rcases h with (rfl | rfl) | rfl | ⟨p, -, rfl⟩
  · intro k hk
    match k, hk with
    | 0, _ => rfl
    | 1, _ => rfl
  · intro k hk
    match k, hk with
    | 0, _ => rfl
    | 1, _ => rfl
    | 2, _ => rfl
  · exact hone _
  · exact hone _

/-- Settles O35: however it is answered, each step warns of what was denied in it, has tried its releases, and goes on to
the next. -/
theorem destroyIsBestEffort : Obligations.DestroyIsBestEffort := by
  intro s hst h
  obtain ⟨t, es, hattempts, ht, htrace, hwarns, hrel⟩ :=
    h.attempts (fun as (has : as ∈ strobeSteps s.pin ++ lowAndReleaseSteps s.pin.toList) =>
      releasesAnyway_of_mem_teardown has)
  refine ⟨_, es, execDestroy_of_attempts hst hattempts, State.respond_st _ _, ?_, hrel.trans rfl, hwarns.isErr_eq, ?_⟩
  · rw [State.respond_trace (by rw [State.enter_cut, ht.1]; nofun), State.enter_trace, htrace]
  · rw [hwarns.isWarning_eq]
    rfl

/-! ### One transaction denied (43_destroy R174, R175) -/

theorem portCount_append (as bs : List Act) : portCount (as ++ bs) = portCount as + portCount bs := by
  induction as with
  | nil => simp [portCount]
  | cons a as ih => cases a <;> simp [portCount, ih, Nat.add_right_comm]

theorem countP_isPort_okEvents (as : List Act) : (okEvents as).countP Event.isPort = portCount as := by
  induction as with
  | nil => rfl
  | cons a as ih =>
    cases a with
    | port x => rw [okEvents, List.countP_cons_of_pos rfl, ih, portCount]
    | wait => exact ih

theorem okEvents_flatten (steps : List (List Act)) : okEvents steps.flatten = (steps.map okEvents).flatten := by
  induction steps with
  | nil => rfl
  | cons as steps ih => simp [okEvents_append, ih]

/-- The state after steps of which only transaction number `k` (from 0) has been denied. -/
def State.attemptedBut (k : Nat) (edges : List Role) : List (List Act) → State → State
  | [], s => s
  | as :: steps, s =>
    if k < portCount as then (s.warnedAt k edges as).performed steps.flatten
    else State.attemptedBut (k - portCount as) edges steps (s.performed as)

section AttemptedBut

variable {k : Nat} {edges : List Role} {s : State}

theorem State.attempts_ok {steps : List (List Act)} (h : s.accepts (portCount steps.flatten)) :
    s.attempts steps = .ok (s.performed steps.flatten) := by
  induction steps generalizing s with
  | nil => rfl
  | cons as steps ih =>
    rw [List.flatten_cons, portCount_append, Nat.add_comm] at h
    obtain ⟨-, hrest⟩ := State.perform_ok as h
    rw [State.attempts, State.attempt_ok (h.mono (Nat.le_add_left ..)), Progress.ok_andThen, ih hrest,
      List.flatten_cons, State.performed_append]

theorem State.attempts_failsAt {steps : List (List Act)} (hk : k < portCount steps.flatten) (h : s.failsAt k edges)
    (hrest : ∀ a ∈ s.answers.drop (k + 1), a = Answer.ok) :
    s.attempts steps = .ok (s.attemptedBut k edges steps) := by
  induction steps generalizing s k with
  | nil => cases hk
  | cons as steps ih =>
    rw [State.attempts, State.attemptedBut]
    split
    · next hlt =>
      rw [State.attempt_failsAt hlt h, Progress.ok_andThen]
      refine State.attempts_ok ⟨State.warnedAt_cut.trans h.1, fun a ha => hrest a ?_⟩
      rw [← State.warnedAt_answers hlt]
      exact List.mem_of_mem_take ha
    · next hge =>
      obtain ⟨j, rfl⟩ := Nat.exists_eq_add_of_le (not_lt.mp hge)
      rw [List.flatten_cons, portCount_append] at hk
      have hanswers := s.performed_answers as
      rw [State.attempt_ok (h.accepts.mono (Nat.le_add_right ..)), Progress.ok_andThen, Nat.add_sub_cancel_left]
      refine ih (Nat.lt_of_add_lt_add_left hk) (h.drop (by simp [State.performed_registers]) hanswers) ?_
      rwa [hanswers, List.drop_drop, ← Nat.add_assoc]

theorem State.attemptedBut_cut (steps : List (List Act)) : (s.attemptedBut k edges steps).cut = s.cut := by
  induction steps generalizing s k with
  | nil => rfl
  | cons as steps ih =>
    rw [State.attemptedBut]
    split
    · simp [State.performed_registers, State.warnedAt_cut]
    · simp [State.performed_registers, ih]

theorem State.attemptedBut_trace (steps : List (List Act)) :
    (s.attemptedBut k edges steps).trace = s.trace ++ failStep k (steps.map okEvents) := by
  induction steps generalizing s k with
  | nil => exact (List.append_nil _).symm
  | cons as steps ih =>
    rw [State.attemptedBut, List.map_cons, failStep, countP_isPort_okEvents]
    split
    · next hlt =>
      rw [State.performed_trace, State.warnedAt_trace hlt, okEvents_flatten, List.append_assoc]
    · rw [ih, State.performed_trace, List.append_assoc]

theorem State.attemptedBut_append (xs ys : List (List Act)) : s.attemptedBut k edges (xs ++ ys) =
    if k < portCount xs.flatten then (s.attemptedBut k edges xs).performed ys.flatten
    else (s.performed xs.flatten).attemptedBut (k - portCount xs.flatten) edges ys := by
  induction xs generalizing s k with
  | nil => rfl
  | cons as xs ih =>
    rw [List.cons_append, State.attemptedBut, State.attemptedBut, List.flatten_cons, portCount_append]
    by_cases hlt : k < portCount as
    · rw [if_pos hlt, if_pos hlt, if_pos (by omega), List.flatten_append, State.performed_append]
    · rw [if_neg hlt, if_neg hlt, ih, State.performed_append, Nat.sub_sub]
      congr 1
      exact propext (by omega)

theorem State.attemptedBut_port_zero (x : Transaction) (steps : List (List Act)) :
    s.attemptedBut 0 edges ([.port x] :: steps) =
      ((s.denied x edges).record (.log .teardownWarning)).performed steps.flatten := rfl

theorem State.attemptedBut_port_succ (x : Transaction) (steps : List (List Act)) :
    s.attemptedBut (k + 1) edges ([.port x] :: steps) = (s.granted x).attemptedBut k edges steps := by
  simp [State.attemptedBut, portCount, State.performed]

/-! Of the releases at most one has been denied. -/

theorem State.attemptedBut_relSteps_level (ps : List Nat) (q : Nat) :
    (s.attemptedBut k edges (relSteps ps)).level q = s.level q := by
  induction ps generalizing s k with
  | nil => rfl
  | cons p ps ih =>
    rw [relSteps_cons]
    cases k with
    | zero =>
      rw [State.attemptedBut_port_zero, relSteps_flatten, State.performed_relActs_level]
      exact s.level_setOwned p none q
    | succ k =>
      rw [State.attemptedBut_port_succ, ih, State.granted_rel_level]

/-- A pin whose release has been denied has no known ownership (43_destroy R175). -/
theorem State.attemptedBut_relSteps_owned {ps : List Nat} (hps : ps.Nodup) (q : Nat) :
    (s.attemptedBut k edges (relSteps ps)).owned q =
      if ps[k]? = some q then none else if q ∈ ps then some false else s.owned q := by
  induction ps generalizing s k with
  | nil => simp [relSteps, State.attemptedBut]
  | cons p ps ih =>
    obtain ⟨hp, hps⟩ := List.nodup_cons.mp hps
    rw [relSteps_cons]
    cases k with
    | zero =>
      have hdenied : (s.denied (.rel p) edges).owned q = if q = p then none else s.owned q := s.owned_setOwned p none q
      rw [State.attemptedBut_port_zero, relSteps_flatten, State.performed_relActs_owned, State.record_owned, hdenied]
      by_cases hq : q = p
      · simp [hq, hp]
      · simp [hq, Ne.symm hq]
    | succ k =>
      rw [State.attemptedBut_port_succ, ih hps, State.granted_rel_owned, List.getElem?_cons_succ]
      by_cases hq : q = p <;> simp [hq]

theorem State.attemptedBut_lowAndRelease_level {ps : List Nat} {q : Nat} (hq : q ∈ ps) :
    (s.attemptedBut k edges (lowAndReleaseSteps ps)).level q = if k = 0 then none else some .low := by
  rw [lowAndReleaseSteps]
  cases k with
  | zero =>
    rw [State.attemptedBut_port_zero, relSteps_flatten, State.performed_relActs_level, State.record_level,
      State.denied_level, State.settled, State.driveFailed_level, if_pos hq, if_pos rfl]
  | succ k =>
    rw [State.attemptedBut_port_succ, State.attemptedBut_relSteps_level, State.granted_setM_level, if_pos hq,
      if_neg k.succ_ne_zero]

theorem State.attemptedBut_lowAndRelease_owned {ps : List Nat} (hps : ps.Nodup) {i : Nat} (hi : i < ps.length) :
    (s.attemptedBut k edges (lowAndReleaseSteps ps)).owned ps[i] = if k = i + 1 then none else some false := by
  rw [lowAndReleaseSteps]
  cases k with
  | zero =>
    rw [State.attemptedBut_port_zero, relSteps_flatten, State.performed_relActs_owned, if_pos (ps.getElem_mem hi),
      if_neg (by omega)]
  | succ k =>
    have hsame : ps[k]? = some ps[i] ↔ k + 1 = i + 1 := by
      rw [← List.getElem?_eq_getElem hi, Nat.add_right_cancel_iff]
      exact ⟨fun h => ((List.getElem?_inj hi hps).mp h.symm).symm, fun h => by rw [h]⟩
    rw [State.attemptedBut_port_succ, State.attemptedBut_relSteps_owned hps, if_pos (ps.getElem_mem hi)]
    simp only [hsame]

theorem lowAndReleaseSteps_flatten (ps : List Nat) :
    (lowAndReleaseSteps ps).flatten = .port (.setM ps .low) :: relActs ps := by
  rw [lowAndReleaseSteps, List.flatten_cons, relSteps_flatten, List.singleton_append]

/-- The pins after a teardown with one denied transaction, of which the first five are those of the strobes. -/
theorem State.attemptedBut_teardown (ps : PinSet) :
    (∀ q ∈ ps.toList, (s.attemptedBut k edges (strobeSteps ps ++ lowAndReleaseSteps ps.toList)).level q =
      if k = 5 then none else some .low) ∧
    (ps.toList.Nodup → ∀ i (hi : i < ps.toList.length),
      (s.attemptedBut k edges (strobeSteps ps ++ lowAndReleaseSteps ps.toList)).owned ps.toList[i] =
        if k = 6 + i then none else some false) := by
  have hcount : portCount (strobeSteps ps).flatten = 5 := rfl
  rw [State.attemptedBut_append, hcount]
  rcases Nat.lt_or_ge k 5 with hlt | hge
  · rw [if_pos hlt, lowAndReleaseSteps_flatten]
    refine ⟨fun q hq => ?_, fun _ i hi => ?_⟩
    · rw [(State.performed_lowAndRelease _ _ hq).1, if_neg (by omega)]
    · rw [(State.performed_lowAndRelease _ _ (List.getElem_mem hi)).2, if_neg (by omega)]
  · obtain ⟨j, rfl⟩ := Nat.exists_eq_add_of_le hge
    rw [if_neg (by omega), Nat.add_sub_cancel_left]
    refine ⟨fun q hq => ?_, fun hps i hi => ?_⟩
    · simp [State.attemptedBut_lowAndRelease_level hq]
    · rw [State.attemptedBut_lowAndRelease_owned hps hi]
      congr 1
      exact propext (by omega)

end AttemptedBut

/-- Settles O36: the steps run to `State.attemptedBut`, whose trace and pins are as stated. -/
theorem destroySkipsFailedStep : Obligations.DestroySkipsFailedStep := by
  intro s k edges hst hk h hrest
  have hattempts := State.attempts_failsAt (steps := strobeSteps s.pin ++ lowAndReleaseSteps s.pin.toList) hk h hrest
  obtain ⟨hlevel, howned⟩ := State.attemptedBut_teardown (s := s) (k := k) (edges := edges) s.pin
  refine ⟨_, execDestroy_of_attempts hst hattempts, State.respond_st _ _, ?_, fun p hp => ?_, fun i hi hd => ?_⟩
  · rw [State.respond_trace (by rw [State.enter_cut, State.attemptedBut_cut, h.1]; nofun), State.enter_trace,
      State.attemptedBut_trace]
    rfl
  · rw [State.respond_level, State.enter_level, hlevel p hp]
  · have hi' : i < s.pin.toList.length := hi
    rw [State.respond_owned, State.enter_owned, List.getD_eq_getElem _ 0 hi',
      howned (of_decide_eq_true hd) i hi']

end Sys2Proof.Machine

/-! ## Pulse (44_pulse R185, R187) -/

namespace Sys2Proof.Machine

/-- Settles O38: a granted pulse runs to its end, and its one rising edge is what the load sees, whatever level the pin
had before. -/
theorem pulseActsOnce : Obligations.PulseActsOnce := by
  refine ⟨fun r s h => ?_, fun s v l h hd hshift hclear hserial => ?_, fun s h hd => ?_⟩
  · obtain ⟨hpulse, -⟩ := State.pulse_ok (n := 0) r h
    refine ⟨_, hpulse, ?_, ?_⟩
    · rw [State.performed_trace, okEvents_pulseActs, pulseEvents]
    · rw [State.performed_pulseActs_level, if_pos rfl]
  · obtain ⟨hpulse, -⟩ := State.pulse_ok (n := 0) .shiftClock h
    exact ⟨_, hpulse, State.performed_pulse_shiftClock hd hclear hserial hshift⟩
  · obtain ⟨hpulse, -⟩ := State.pulse_ok (n := 0) .latchClock h
    obtain ⟨hshift, hout⟩ := State.performed_pulse_latchClock hd
    exact ⟨_, hpulse, hout, hshift⟩

end Sys2Proof.Machine

/-! ## Forbidden and permitted commands

A command that `ST` forbids only answers, with `StateError`; a permitted one whose transactions all answer `ok` ends,
and the one response it adds to the trace keeps a good run good (60_exceptions R206 to R208, R212). -/

namespace Sys2Proof.Machine

/-- Settles O41: DESTROY is forbidden nowhere, and a state that forbids one of the other four does not serve it. -/
theorem invalidCommandsAnswerStateError : Obligations.InvalidCommandsAnswerStateError := by
  intro i s hcut hforbids
  obtain ⟨hserves, hdeclined⟩ : s.st.serves i = false ∧ declined i = .stateError := by
    cases i with
    | destroy => exact hforbids.elim
    | construct | capacity | clear | write => exact ⟨by simpa [Lifecycle.serves] using hforbids, rfl⟩
  rw [exec_of_not_serves hserves, State.respond_of_cut_none hcut, hdeclined]

theorem Event.response?_eq_none {e : Event} (h : e.isResponse = false) : e.response? = none := by
  cases e with
  | respond r => cases h
  | port | wait | log => rfl

theorem State.good_of_one_response {s t : State} {es : List Event} {r : Response} (hgood : s.good = true)
    (htrace : t.trace = s.trace ++ es ++ [.respond r]) (hes : ∀ e ∈ es, e.isResponse = false) (hr : r.bad = false) :
    t.good = true := by
  have hnone : es.filterMap Event.response? = [] :=
    List.filterMap_eq_nil_iff.mpr (fun e he => Event.response?_eq_none (hes e he))
  simpa [State.good, State.responses, htrace, hnone, Event.response?, hr] using hgood

/-- A command responds once, so one that ends with a response that is not bad has returned no bad one. -/
theorem exec_keeps_good {i : Instr} {s u : State} {r : Response} (hgood : s.good = true) (hcut : s.cut = none)
    (h : exec i s = .next (u.respond r) ∧ u.accepts 0) (hr : r.bad = false) :
    ∃ t, exec i s = .next t ∧ t.good = true := by
  obtain ⟨hexec, hend⟩ := h
  obtain ⟨es, r', htrace, hes, -⟩ := oneResponseAndTransition i s _ hcut hexec
  have hlast : (u.respond r).trace = u.trace ++ [.respond r] := State.respond_trace (by rw [hend.cut]; nofun) r
  obtain rfl : r = r' := by simpa using (List.append_inj' (hlast.symm.trans htrace) rfl).2
  exact ⟨_, hexec, State.good_of_one_response hgood htrace hes hr⟩

/-- Settles O48: with every answer `ok` a permitted command ends with `OK`, a value, or an argument rejected. -/
theorem permittedCommandsKeepRunGood : Obligations.PermittedCommandsKeepRunGood := by
  intro i s hcut hans hgood hpermitted
  have haccepts : ∀ n, s.accepts n := fun n => ⟨hcut, fun a ha => hans a (List.mem_of_mem_take ha)⟩
  cases i with
  | construct p0 p1 p2 p3 n =>
    rcases lt_or_ge n 0 with hn | hn
    · exact exec_keeps_good hgood hcut
        ⟨execConstruct_of_negative (ps := ⟨p0, p1, p2, p3⟩) hpermitted hn, haccepts 0⟩ rfl
    · exact exec_keeps_good hgood hcut (execConstruct_ok (ps := ⟨p0, p1, p2, p3⟩) hpermitted hn (haccepts _)) rfl
  | capacity => exact exec_keeps_good hgood hcut ⟨execCapacity_of_ready hpermitted, haccepts 0⟩ rfl
  | clear => exact exec_keeps_good hgood hcut (execClear_ok hpermitted (haccepts _)) rfl
  | write data =>
    rcases lt_or_ge data (2 ^ s.cap) with hd | hd
    · exact exec_keeps_good hgood hcut (execWrite_ok hpermitted hd (haccepts _)) rfl
    · have hexec := writeRangeCheck.1 data s hpermitted hcut hd
      rw [← State.respond_of_cut_none hcut] at hexec
      exact exec_keeps_good hgood hcut ⟨hexec, haccepts 0⟩ rfl
  | destroy =>
    by_cases hst : s.st = .ready
    · exact exec_keeps_good hgood hcut (execDestroy_ok hst (haccepts _)) rfl
    · exact exec_keeps_good hgood hcut
        ⟨exec_of_not_serves (by simpa [Lifecycle.serves] using hst), haccepts 0⟩ rfl

end Sys2Proof.Machine

/-! ## What commands are built from

Every command runs one operation, put together from events and updates of the registers, and ends with the response to
it. A claim about what commands can do is then an induction over the ways operations are put together. -/

namespace Sys2Proof.Machine

/-- The state with a reset scheduled at `c`, or none. -/
def State.withCut (s : State) (c : Option Nat) : State := { s with cut := c }

@[simp] theorem State.withCut_st (s : State) (c : Option Nat) : (s.withCut c).st = s.st := rfl
@[simp] theorem State.withCut_cap (s : State) (c : Option Nat) : (s.withCut c).cap = s.cap := rfl
@[simp] theorem State.withCut_seq (s : State) (c : Option Nat) : (s.withCut c).seq = s.seq := rfl
@[simp] theorem State.withCut_cut (s : State) (c : Option Nat) : (s.withCut c).cut = c := rfl
@[simp] theorem State.withCut_trace (s : State) (c : Option Nat) : (s.withCut c).trace = s.trace := rfl
@[simp] theorem State.withCut_nextAnswer (s : State) (c : Option Nat) : (s.withCut c).nextAnswer = s.nextAnswer := rfl
@[simp] theorem State.withCut_shift (s : State) (c : Option Nat) : (s.withCut c).shift = s.shift := rfl
@[simp] theorem State.withCut_out (s : State) (c : Option Nat) : (s.withCut c).out = s.out := rfl
@[simp] theorem State.withCut_owned (s : State) (c : Option Nat) (p : Nat) : (s.withCut c).owned p = s.owned p := rfl
@[simp] theorem State.withCut_level (s : State) (c : Option Nat) (p : Nat) : (s.withCut c).level p = s.level p := rfl

/-- An update that writes `ST`, `ACQ` and the registers of WRITE alone and does not look at the scheduled reset. -/
structure Internal (f : State → State) : Prop where
  writes : ∀ s, f s = { s with
    st := (f s).st, dsr := (f s).dsr, mask := (f s).mask, bitcnt := (f s).bitcnt, acq := (f s).acq }
  withCut : ∀ s c, f (s.withCut c) = (f s).withCut c

theorem Internal.enter (st : Lifecycle) : Internal (fun s => s.enter st) := ⟨fun _ => rfl, fun _ _ => rfl⟩

theorem Internal.loadShifter (data : Nat) : Internal (fun s => s.loadShifter data) :=
  ⟨fun _ => rfl, fun _ _ => rfl⟩

theorem Internal.nextBit : Internal State.nextBit := ⟨fun _ => rfl, fun _ _ => rfl⟩

theorem Internal.countPin : Internal State.countPin := ⟨fun _ => rfl, fun _ _ => rfl⟩

/-- What a command does between its checks and its response. -/
inductive Operation : (State → Progress) → Prop
  | issue (x : Transaction) : Operation (fun s => s.issue x)
  | wait : Operation (fun s => s.emit .wait)
  | log (k : LogKind) : Operation (fun s => s.emit (.log k))
  | update {f : State → State} (hf : Internal f) : Operation (fun s => .ok (f s))
  | andThen {f g : State → Progress} (hf : Operation f) (hg : Operation g) : Operation (fun s => (f s).andThen g)
  | orWarn {f : State → Progress} (hf : Operation f) : Operation (fun s => (f s).orWarn)
  | orIgnore {f : State → Progress} (hf : Operation f) : Operation (fun s => (f s).orIgnore)
  | reading {α : Type} {read : State → α} {f : α → State → Progress} (hread : ∀ s c, read (s.withCut c) = read s)
      (hf : ∀ a, Operation (f a)) : Operation (fun s => f (read s) s)

/-- A command after its checks: an operation and how it is answered. -/
inductive Command : (State → StepResult) → Prop
  | conclude {f : State → Progress} (hf : Operation f) (r : Response) : Command (fun s => (f s).conclude r)
  | concludeConstruct {f : State → Progress} (hf : Operation f) : Command (fun s => (f s).concludeConstruct)

/-! ### The operations of the commands -/

theorem Operation.skip : Operation Progress.ok := .update (f := id) ⟨fun _ => rfl, fun _ _ => rfl⟩

theorem Operation.enter (st : Lifecycle) : Operation (fun s => .ok (s.enter st)) :=
  .update (.enter st)

theorem Operation.perform (as : List Act) : Operation (State.perform as) := by
  induction as with
  | nil => exact .skip
  | cons a as ih =>
    cases a with
    | port x => exact (Operation.issue x).andThen ih
    | wait => exact Operation.wait.andThen ih

theorem Operation.clearSeq : Operation State.clearSeq :=
  .reading (read := fun s => s.pin.clear) (f := fun p s => s.perform (clearActs p)) (fun _ _ => rfl)
    (fun _ => .perform _)

theorem Operation.pulse (r : Role) : Operation (State.pulse r) :=
  .reading (read := fun s => s.pin.at r) (f := fun p s => s.perform (pulseActs p)) (fun _ _ => rfl)
    (fun _ => .perform _)

theorem Operation.sendBit : Operation State.sendBit :=
  ((Operation.reading (read := fun s => Transaction.set s.pin.serialIn (levelOfBit (maskedBit s.dsr s.mask)))
    (fun _ _ => rfl) .issue).andThen (.pulse .shiftClock)).andThen (.update .nextBit)

theorem Operation.sendBits (n : Nat) : Operation (State.sendBits n) := by
  induction n with
  | zero => exact .skip
  | succ n ih => exact Operation.sendBit.andThen ih

theorem Operation.shiftData (data : Nat) : Operation (State.shiftData data) :=
  (Operation.clearSeq.andThen (.update (.loadShifter data))).andThen
    (.reading (read := State.bitcnt) (fun _ _ => rfl) .sendBits)

theorem Operation.acquire (ps : List Nat) : Operation (State.acquire ps) := by
  induction ps with
  | nil => exact .skip
  | cons p ps ih =>
    exact (Operation.issue (.cfg p)).andThen ((Operation.update .countPin).andThen ih)

theorem Operation.releaseIgnoring (ps : List Nat) : Operation (State.releaseIgnoring ps) := by
  induction ps with
  | nil => exact .skip
  | cons p ps ih => exact (Operation.issue (.rel p)).orIgnore.andThen ih

theorem Operation.releaseWarning (ps : List Nat) : Operation (State.releaseWarning ps) := by
  induction ps with
  | nil => exact .skip
  | cons p ps ih => exact (Operation.issue (.rel p)).orWarn.andThen ih

theorem Operation.rollback : Operation State.rollback := by
  have hlog : ∀ acq, Operation (fun s => if acq = 0 then .ok s else s.emit (.log .rollback)) := fun acq => by
    by_cases h : acq = 0
    · simpa only [if_pos h] using Operation.skip
    · simpa only [if_neg h] using Operation.log .rollback
  exact (Operation.reading (read := fun s => s.pin.toList.take s.acq) (fun _ _ => rfl) .releaseIgnoring).andThen
    ((Operation.reading (read := State.acq) (fun _ _ => rfl) hlog).andThen (.enter .failed))

theorem Operation.teardown : Operation State.teardown :=
  (((Operation.clearSeq.orWarn.andThen (Operation.pulse .latchClock).orWarn).andThen
    (Operation.reading (read := fun s => Transaction.setM s.pin.toList .low) (fun _ _ => rfl) .issue).orWarn).andThen
    (.reading (read := fun s => s.pin.toList) (fun _ _ => rfl) .releaseWarning)).andThen (.enter .released)

/-! ### The commands -/

/-- A command that only answers. -/
theorem Command.answer (r : Response) : Command (fun s => .next (s.respond r)) := .conclude .skip r

/-- Wherever a reset is scheduled, `exec` runs one and the same command; CONSTRUCT adopts its operands before it
(40_construct_capacity R120). -/
theorem exec_command (i : Instr) (s : State) : ∃ g t, Command g ∧ (t = s ∨ ∃ ps n, t = s.adopt ps n) ∧
    ∀ c, exec i (s.withCut c) = g (t.withCut c) := by
  by_cases hserves : s.st.serves i = false
  · exact ⟨_, s, .answer (declined i), .inl rfl, fun c => exec_of_not_serves (s := s.withCut c) hserves⟩
  cases i with
  | construct p0 p1 p2 p3 n =>
    have hst : s.st = .uninitialized := by simpa [Lifecycle.serves] using hserves
    rcases lt_or_ge n 0 with hn | hn
    · exact ⟨_, s, .answer .invalidArgument, .inl rfl,
        fun c => execConstruct_of_negative (ps := ⟨p0, p1, p2, p3⟩) (s := s.withCut c) hst hn⟩
    · have hcount : badSlaveCount n = false := by simpa [badSlaveCount] using hn
      refine ⟨_, s.adopt ⟨p0, p1, p2, p3⟩ n, .concludeConstruct (.acquire [p0, p1, p2, p3]), .inr ⟨_, _, rfl⟩,
        fun c => ?_⟩
      rw [exec, execConstruct, if_neg (by simp [hst]), hcount, if_neg (by simp)]
      rfl
  | capacity =>
    have hst : s.st = .ready := by simpa [Lifecycle.serves] using hserves
    exact ⟨_, s, .answer (.okValue s.cap), .inl rfl, fun c => execCapacity_of_ready (s := s.withCut c) hst⟩
  | clear =>
    have hst : s.st = .ready := by simpa [Lifecycle.serves] using hserves
    exact ⟨_, s, .conclude .clearSeq .ok, .inl rfl, fun c => by rw [exec, execClear, if_neg (by simp [hst])]⟩
  | write data =>
    have hst : s.st = .ready := by simpa [Lifecycle.serves] using hserves
    rcases lt_or_ge data (2 ^ s.cap) with hdata | hdata
    · exact ⟨_, s, .conclude ((Operation.shiftData data).andThen (.pulse .latchClock)) .ok, .inl rfl,
        fun c => execWrite_of_fits (s := s.withCut c) hst hdata⟩
    · have hwide : ∀ c, tooWide data (s.withCut c).cap = true := fun _ => decide_eq_true hdata
      exact ⟨_, s, .answer .invalidArgument, .inl rfl,
        fun c => by rw [exec, execWrite, if_neg (by simp [hst]), if_pos (hwide c), State.raise]⟩
  | destroy =>
    have hst : s.st = .ready := by simpa [Lifecycle.serves] using hserves
    exact ⟨_, s, .conclude .teardown .ok, .inl rfl,
      fun c => by rw [exec, execDestroy, if_pos (by simp [State.constructed, State.tornDown, hst])]⟩

/-! ## Every answered command ends (70_reset_and_hazards R251) -/

/-- The run has taken its answers from `as`, and hangs only if one of them is `silent`. -/
def Progress.TakesFrom (as : List Answer) : Progress → Prop
  | .ok s => s.answers ⊆ as
  | .failed s => s.answers ⊆ as
  | .abandoned s => s.answers ⊆ as
  | .hung => .silent ∈ as

section TakesFrom

variable {as : List Answer} {p : Progress}

theorem Progress.TakesFrom.andThen (h : p.TakesFrom as) {f : State → Progress}
    (hf : ∀ s, s.answers ⊆ as → (f s).TakesFrom as) : (p.andThen f).TakesFrom as := by
  cases p with
  | ok s => exact hf s h
  | failed s => exact h
  | abandoned s => exact h
  | hung => exact h

theorem State.issue_takesFrom {s : State} (h : s.answers ⊆ as) (x : Transaction) : (s.issue x).TakesFrom as := by
  have htail : s.answers.tail ⊆ as := List.Subset.trans (List.tail_subset _) h
  rcases s.issue_cases x with ⟨-, hx⟩ | ⟨-, hx⟩ | ⟨es, -, hx⟩ | ⟨hsilent, -, hx⟩ | ⟨-, -, hx⟩ <;> rw [hx]
  · exact h
  · simpa [Progress.TakesFrom] using htail
  · simpa [Progress.TakesFrom] using htail
  · exact h (State.silent_mem hsilent)
  · exact htail

theorem State.emit_takesFrom {s : State} (h : s.answers ⊆ as) (e : Event) : (s.emit e).TakesFrom as := by
  rcases s.emit_cases e with ⟨-, he⟩ | ⟨-, he⟩ <;> rw [he] <;> exact h

theorem Progress.TakesFrom.orWarn (h : p.TakesFrom as) : p.orWarn.TakesFrom as := by
  cases p with
  | failed s => exact State.emit_takesFrom h _
  | ok | abandoned | hung => exact h

theorem Progress.TakesFrom.orIgnore (h : p.TakesFrom as) : p.orIgnore.TakesFrom as := by
  cases p <;> exact h

theorem Operation.takesFrom {f : State → Progress} (hf : Operation f) {s : State} (h : s.answers ⊆ as) :
    (f s).TakesFrom as := by
  induction hf generalizing s with
  | issue x => exact State.issue_takesFrom h x
  | wait => exact State.emit_takesFrom h .wait
  | log k => exact State.emit_takesFrom h (.log k)
  | @update g hg =>
    change (g s).answers ⊆ as
    rw [hg.writes s]
    exact h
  | andThen _ _ ihf ihg => exact (ihf h).andThen (fun _ ht => ihg ht)
  | orWarn _ ih => exact (ih h).orWarn
  | orIgnore _ ih => exact (ih h).orIgnore
  | reading _ _ ih => exact ih _ h

end TakesFrom

/-- The result is a next state, or a hang on one of the answers `as`. -/
def StepResult.EndsOrHangs (as : List Answer) (x : StepResult) : Prop :=
  (∃ t, x = .next t) ∨ (x = .fault .noAnswer ∧ .silent ∈ as)

theorem Progress.TakesFrom.conclude {as : List Answer} {p : Progress} (h : p.TakesFrom as) (r : Response) :
    StepResult.EndsOrHangs as (p.conclude r) := by
  cases p with
  | hung => exact .inr ⟨rfl, h⟩
  | ok | failed | abandoned => exact .inl ⟨_, rfl⟩

theorem Progress.TakesFrom.concludeConstruct {as : List Answer} {p : Progress} (h : p.TakesFrom as) :
    StepResult.EndsOrHangs as p.concludeConstruct := by
  cases p with
  | failed s => exact (Operation.rollback.takesFrom h).conclude _
  | ok s => exact Progress.TakesFrom.conclude (p := .ok (s.enter .ready)) h .ok
  | abandoned s => exact Progress.TakesFrom.conclude (p := .abandoned s) h .ok
  | hung => exact Progress.TakesFrom.conclude (p := .hung) h .ok

theorem Command.endsOrHangs {g : State → StepResult} (hg : Command g) (s : State) :
    StepResult.EndsOrHangs s.answers (g s) := by
  cases hg with
  | conclude hf r => exact (hf.takesFrom (List.Subset.refl _)).conclude r
  | concludeConstruct hf => exact (hf.takesFrom (List.Subset.refl _)).concludeConstruct

/-- Every command answers a next state, or waits for an answer that never comes. -/
theorem exec_endsOrHangs (i : Instr) (s : State) : StepResult.EndsOrHangs s.answers (exec i s) := by
  obtain ⟨g, t, hg, ht, hexec⟩ := exec_command i s
  have hanswers : (t.withCut s.cut).answers = s.answers := by
    rcases ht with rfl | ⟨ps, n, rfl⟩ <;> rfl
  rw [show exec i s = g (t.withCut s.cut) from hexec s.cut, ← hanswers]
  exact hg.endsOrHangs _

/-- Settles O47: a command that does not end hangs on a silent answer, and CLEAR does so on its first. -/
theorem answeredCommandsEnd : Obligations.AnsweredCommandsEnd := by
  refine ⟨fun i s h => ?_, fun i s f hfault => ?_, fun s rest hst hcut hanswers => ?_⟩
  · exact (exec_endsOrHangs i s).resolve_right (fun ⟨_, hsilent⟩ => h.2 _ hsilent rfl)
  · rcases exec_endsOrHangs i s with ⟨t, hnext⟩ | ⟨hhang, hsilent⟩
    · cases hnext.symm.trans hfault
    · cases hhang.symm.trans hfault
      exact ⟨rfl, hsilent⟩
  · have hissue : s.issue (.set s.pin.clear .low) = .hung := by
      simp [State.issue, State.nextAnswer, hcut, hanswers]
    rw [exec, execClear, if_neg (by simp [hst]), State.clearSeq, clearActs, State.perform, State.act, hissue]
    rfl

/-! ## The pins and the load through a reset -/

theorem step_reset {s : State} {rest : List HostMove} (h : s.inbox = .reset :: rest) :
    step s = .next (State.hardwareReset { s with inbox := rest }) := by
  simp only [step, State.fetch, h]

/-- Settles O9: the reset of an idle block writes the registers inside SRBB alone. -/
theorem resetLeavesPinsAndLoad : Obligations.ResetLeavesPinsAndLoad := fun _ _ hin =>
  ⟨_, step_reset hin, rfl, rfl, rfl, rfl, rfl, rfl, rfl, rfl, fun _ => ⟨rfl, rfl⟩⟩

/-- Settles O30: a successful CONSTRUCT leaves the registers and the answers `writeLatchesData` needs, and that asks
nothing of the load or the levels. -/
theorem freshPinsHarmNoWrite : Obligations.FreshPinsHarmNoWrite := by
  intro ps n data s hst hd hdata haccepts
  obtain ⟨t, hexec, hready, -, -, hpin, hns, hcap, -, -, -, -, hshift, hout, -, -, -, hanswers, -, hcut⟩ :=
    constructSucceeds ps.serialIn ps.shiftClock ps.latchClock ps.clear n s hst (Int.natCast_nonneg n)
      (haccepts.mono (by omega))
  rw [Int.natCast_inj.mp hns] at hcap
  have haccepts' : t.accepts (4 * t.cap + 5) := by
    rw [hcap]
    exact haccepts.drop (hcut.trans haccepts.cut.symm) hanswers
  rw [← hcap] at hdata
  obtain ⟨u, hwrite, hu⟩ := writeLatchesData data t hready (hpin ▸ hd) hdata haccepts'
  exact ⟨t, u, hexec, hshift, hout, hwrite, hu⟩

end Sys2Proof.Machine

/-! ## A reset inside a command (70_reset_and_hazards R240, R242)

The same command is run twice, without a reset and with one scheduled after `n` events. Up to event `n` the two runs are
in the same state but for the schedule, and what the completed events did is `State.replay` of them; there the second
run is abandoned, and the first only adds to its trace. -/

namespace Sys2Proof.Machine

/-! ### Events replayed -/

/-- What a transaction does to the state does not depend on the scheduled reset. -/
theorem State.settled_withCut (s : State) (c : Option Nat) (x : Transaction) (a : Answer) :
    (s.withCut c).settled x a = (s.settled x a).withCut c := by
  have outside : (s.settled x a).SameOutside ((s.withCut c).settled x a) :=
    State.SameOutside.settled (s := s) (t := s.withCut c) ⟨rfl, rfl, rfl, rfl, rfl, rfl⟩ x a
  rw [← State.sameInside_settled (s.withCut c) x a, ← outside.space, ← outside.shift, ← outside.out,
    ← State.sameInside_settled s x a]
  rfl

theorem State.granted_withCut (s : State) (c : Option Nat) (x : Transaction) :
    (s.withCut c).granted x = (s.granted x).withCut c := by
  rw [State.granted, State.settled_withCut]
  rfl

theorem State.denied_withCut (s : State) (c : Option Nat) (x : Transaction) (edges : List Role) :
    (s.withCut c).denied x edges = (s.denied x edges).withCut c := by
  rw [State.denied, State.settled_withCut]
  rfl

/-- `x` is a state on the way of a command that started at `v` and that no reset strikes: the events `es` have
completed. -/
structure State.Completed (v : State) (es : List Event) (x : State) : Prop where
  cut : x.cut = none
  seq : x.seq = es.length
  pin : x.pin = v.pin
  cap : x.cap = v.cap
  trace : x.trace = v.trace ++ es
  outside : (es.foldl State.replay v).SameOutside x
  answers : (es.foldl State.replay v).answers = x.answers

section Completed

variable {v x y : State} {es : List Event} {n : Nat}

theorem State.SameOutside.record (h : x.SameOutside y) (e : Event) : (x.record e).SameOutside (y.record e) :=
  { h with count := by simp [h.count] }

theorem State.Completed.recorded (h : v.Completed es x) {e : Event} (he : ∀ s : State, s.replay e = s.record e) :
    v.Completed (es ++ [e]) (x.record e) where
  cut := h.cut
  seq := by simp [h.seq]
  pin := h.pin
  cap := h.cap
  trace := by simp [h.trace]
  outside := by simpa [he] using h.outside.record e
  answers := by simpa [he] using h.answers

theorem State.Completed.granted (h : v.Completed es x) (t : Transaction) :
    v.Completed (es ++ [.port t .ok]) (x.granted t) where
  cut := by simpa using h.cut
  seq := by simp [h.seq]
  pin := by simpa using h.pin
  cap := by simpa using h.cap
  trace := by simp [h.trace]
  outside := by
    rw [List.foldl_append]
    exact { (h.outside.settled t .ok).record (.port t .ok) with }
  answers := by simp [State.replay, h.answers]

theorem State.Completed.denied (h : v.Completed es x) {edges : List Role} (hx : x.nextAnswer = .err edges)
    (t : Transaction) : v.Completed (es ++ [.port t .err]) (x.denied t edges) := by
  have hreplay : (es ++ [Event.port t .err]).foldl State.replay v = (es.foldl State.replay v).denied t edges := by
    rw [State.nextAnswer, ← h.answers, ← State.nextAnswer] at hx
    simp [State.replay, hx]
  refine ⟨by simpa using h.cut, by simp [h.seq], by simpa using h.pin, by simpa using h.cap, by simp [h.trace], ?_, ?_⟩
  · rw [hreplay]
    exact { (h.outside.settled t (.err edges)).record (.port t .err) with }
  · simp [hreplay, h.answers]

theorem State.Completed.internal (h : v.Completed es x) {f : State → State} (hf : Internal f) :
    v.Completed es (f x) := by
  rw [hf.writes x]
  exact { h with outside := { h.outside with } }

/-! ### Past an instant -/

/-- `y` lies at least one event after `x` in a command that no reset strikes. -/
structure State.Before (x y : State) : Prop where
  cut : y.cut = none
  pin : y.pin = x.pin
  cap : y.cap = x.cap
  trace : x.trace <+: y.trace
  longer : x.trace.length < y.trace.length

theorem State.Before.of_append {z : State} {e : Event} (hxy : x.trace <+: y.trace) (hcut : z.cut = none)
    (hpin : z.pin = x.pin) (hcap : z.cap = x.cap) (htrace : z.trace = y.trace ++ [e]) : x.Before z where
  cut := hcut
  pin := hpin
  cap := hcap
  trace := htrace ▸ hxy.trans (List.prefix_append _ _)
  longer := by
    rw [htrace, List.length_append]
    exact Nat.lt_succ_of_le hxy.length_le

theorem State.before_keepsUncut (x : State) : KeepsUncut x.Before where
  granted y t _ h := .of_append h.trace (by simpa using h.cut) (by simpa using h.pin) (by simpa using h.cap)
    (y.granted_trace t)
  denied y t edges _ h := .of_append h.trace (by simpa using h.cut) (by simpa using h.pin) (by simpa using h.cap)
    (y.denied_trace t edges)
  dropped _ h := { h with }
  waited _ h := .of_append h.trace h.cut h.pin h.cap rfl
  logged _ _ h := .of_append h.trace h.cut h.pin h.cap rfl
  cut _ h := h.cut

theorem State.Before.internal (h : x.Before y) {f : State → State} (hf : Internal f) : x.Before (f y) := by
  rw [hf.writes y]
  exact { h with }

/-- A run that goes on past `x` stays past it. -/
theorem Operation.staysBefore {f : State → Progress} (hf : Operation f) (h : x.Before y) :
    (f y).Ends x.Before x.Before := by
  have k := x.before_keepsUncut
  induction hf generalizing y with
  | issue t => exact k.issue h t
  | wait => exact State.emit_ends h.cut (k.waited y h)
  | log kind => exact State.emit_ends h.cut (k.logged y kind h)
  | update hf => exact h.internal hf
  | andThen _ _ ihf ihg => exact (ihf h).andThen (fun _ hz => ihg hz)
  | orWarn _ ih => exact k.orWarn (ih h)
  | orIgnore _ ih => exact (ih h).orIgnore
  | reading _ _ ih => exact ih _ h

/-! ### The two runs -/

/-- How the run `q` with a reset scheduled after event `n` stands to the run `p` without one: it is not struck yet, or
it is abandoned where `p` goes on. -/
inductive Progress.CutAs (v : State) (n : Nat) : Progress → Progress → Prop
  | ok {es : List Event} {x : State} (h : v.Completed es x) (hn : es.length ≤ n) :
      CutAs v n (.ok x) (.ok (x.withCut (some n)))
  | failed {es : List Event} {x : State} (h : v.Completed es x) (hn : es.length ≤ n) :
      CutAs v n (.failed x) (.failed (x.withCut (some n)))
  | struck {es : List Event} {x : State} {p : Progress} (h : v.Completed es x) (hn : es.length = n)
      (hp : p.Ends x.Before x.Before) : CutAs v n p (.abandoned (x.withCut (some n)))
  | hung (q : Progress) : CutAs v n .hung q

theorem State.Completed.issue (h : v.Completed es x) (hn : es.length ≤ n) (t : Transaction) :
    (x.issue t).CutAs v n ((x.withCut (some n)).issue t) := by
  rcases hn.eq_or_lt with heq | hlt
  · have hstruck : (x.withCut (some n)).issue t = .abandoned (x.withCut (some n)) := by
      simp [State.issue, h.seq, heq]
    rw [hstruck]
    refine .struck h heq (State.issue_ends h.cut ?_ (fun edges => ?_))
    · exact .of_append List.prefix_rfl (by simpa using h.cut) (by simp) (by simp) (x.granted_trace t)
    · exact .of_append List.prefix_rfl (by simpa using h.cut) (by simp) (by simp) (x.denied_trace t edges)
  · have hseq : n ≠ x.seq := by rw [h.seq]; exact hlt.ne'
    cases hx : x.nextAnswer with
    | ok =>
      have hlong : (es ++ [Event.port t .ok]).length ≤ n := by simpa using hlt
      simpa [State.issue, h.cut, hx, hseq, State.granted_withCut] using Progress.CutAs.ok (h.granted t) hlong
    | err edges =>
      have hlong : (es ++ [Event.port t .err]).length ≤ n := by simpa using hlt
      simpa [State.issue, h.cut, hx, hseq, State.denied_withCut] using Progress.CutAs.failed (h.denied hx t) hlong
    | silent =>
      have hhung : x.issue t = .hung := by simp [State.issue, h.cut, hx]
      rw [hhung]
      exact .hung _

theorem State.Completed.emit (h : v.Completed es x) (hn : es.length ≤ n) {e : Event}
    (he : ∀ s : State, s.replay e = s.record e) : (x.emit e).CutAs v n ((x.withCut (some n)).emit e) := by
  rw [State.emit_of_cut_none h.cut]
  rcases hn.eq_or_lt with heq | hlt
  · have hstruck : (x.withCut (some n)).emit e = .abandoned (x.withCut (some n)) := by
      simp [State.emit, h.seq, heq]
    rw [hstruck]
    exact .struck h heq (.of_append List.prefix_rfl h.cut rfl rfl (x.record_trace e))
  · have hgoes : (x.withCut (some n)).emit e = .ok ((x.record e).withCut (some n)) := by
      have hseq : n ≠ x.seq := by rw [h.seq]; exact hlt.ne'
      simp only [State.emit, State.withCut_cut, State.withCut_seq, Option.some.injEq, hseq, if_false]
      rfl
    rw [hgoes]
    exact .ok (h.recorded he) (by simpa using hlt)

theorem Progress.CutAs.andThen {p q : Progress} (h : p.CutAs v n q) {f : State → Progress} (hf : Operation f)
    (hcut : ∀ {es x}, v.Completed es x → es.length ≤ n → (f x).CutAs v n (f (x.withCut (some n)))) :
    (p.andThen f).CutAs v n (q.andThen f) := by
  cases h with
  | ok h hn => exact hcut h hn
  | failed h hn => exact .failed h hn
  | struck h hn hp => exact .struck h hn (hp.andThen (fun _ hy => hf.staysBefore hy))
  | hung q => exact .hung _

theorem Progress.CutAs.orWarn {p q : Progress} (h : p.CutAs v n q) : p.orWarn.CutAs v n q.orWarn := by
  cases h with
  | ok h hn => exact .ok h hn
  | failed h hn => exact h.emit hn (fun _ => rfl)
  | struck h hn hp => exact .struck h hn ((State.before_keepsUncut _).orWarn hp)
  | hung q => exact .hung _

theorem Progress.CutAs.orIgnore {p q : Progress} (h : p.CutAs v n q) : p.orIgnore.CutAs v n q.orIgnore := by
  cases h with
  | ok h hn => exact .ok h hn
  | failed h hn => exact .ok h hn
  | struck h hn hp => exact .struck h hn hp.orIgnore
  | hung q => exact .hung _

theorem Operation.cutAs {f : State → Progress} (hf : Operation f) (h : v.Completed es x) (hn : es.length ≤ n) :
    (f x).CutAs v n (f (x.withCut (some n))) := by
  induction hf generalizing es x with
  | issue t => exact h.issue hn t
  | wait => exact h.emit hn (fun _ => rfl)
  | log kind => exact h.emit hn (fun _ => rfl)
  | @update g hg =>
    change (Progress.ok (g x)).CutAs v n (.ok (g (x.withCut (some n))))
    rw [hg.withCut]
    exact .ok (h.internal hg) hn
  | andThen _ hg ihf ihg => exact (ihf h hn).andThen hg (fun h hn => ihg h hn)
  | orWarn _ ih => exact (ih h hn).orWarn
  | orIgnore _ ih => exact (ih h hn).orIgnore
  | @reading α read f hread _ ih =>
    change (f (read x) x).CutAs v n (f (read (x.withCut (some n))) (x.withCut (some n)))
    rw [hread]
    exact ih _ h hn

/-! ### The two results -/

/-- `t` has the pins and the load of `s`. -/
def State.LeftAs (t s : State) : Prop :=
  t.shift = s.shift ∧ t.out = s.out ∧ ∀ p, t.owned p = s.owned p ∧ t.level p = s.level p

theorem State.SameOutside.leftAs (h : x.SameOutside y) : y.LeftAs x :=
  ⟨h.shift.symm, h.out.symm, fun p => ⟨(h.owned p).symm, (h.level p).symm⟩⟩

/-- `w` is what a reset after `n` events makes of a command from `v` that would end in `u`, but for the reset of the
registers itself. -/
structure State.CutTo (v : State) (n : Nat) (u w : State) : Prop where
  pin : u.pin = v.pin
  cap : u.cap = v.cap
  trace : w.trace = u.trace.take (v.trace.length + n)
  replayed : ∃ es, w.trace = v.trace ++ es ∧ w.LeftAs (es.foldl State.replay v)
  last : u.trace.length ≤ v.trace.length + n + 1 → w.LeftAs u

/-- Not struck before the response, a command is struck there or not at all. -/
theorem State.Completed.respond (h : v.Completed es x) (hn : es.length ≤ n) (r : Response) :
    v.CutTo n (x.respond r) ((x.withCut (some n)).respond r) := by
  have hleft : ((x.withCut (some n)).respond r).LeftAs (x.respond r) := by simp [State.LeftAs]
  have houtside : ((x.withCut (some n)).respond r).LeftAs (es.foldl State.replay v) := by
    simpa [State.LeftAs] using h.outside.leftAs
  have htrace : (x.respond r).trace = v.trace ++ es ++ [.respond r] := by simp [h.cut, h.trace]
  rcases hn.eq_or_lt with heq | hlt
  · have hstruck : ((x.withCut (some n)).respond r).trace = v.trace ++ es := by
      simp [State.respond, h.seq, heq, h.trace]
    refine ⟨by simpa using h.pin, by simpa using h.cap, ?_, ⟨es, hstruck, houtside⟩, fun _ => hleft⟩
    rw [hstruck, htrace, ← heq, ← List.length_append, List.take_left]
  · have hgoes : ((x.withCut (some n)).respond r).trace = v.trace ++ es ++ [.respond r] := by
      rw [State.respond_trace (by simpa [h.seq] using hlt.ne'), State.withCut_trace, h.trace]
    refine ⟨by simpa using h.pin, by simpa using h.cap, ?_,
      ⟨es ++ [.respond r], by rw [hgoes, List.append_assoc], ?_⟩, fun _ => hleft⟩
    · rw [hgoes, htrace, List.take_of_length_le]
      simp only [List.length_append, List.length_singleton]
      omega
    · rw [List.foldl_append]
      exact houtside

/-- Struck before it, a command does not get to its response. -/
theorem State.Completed.struck (h : v.Completed es x) (hn : es.length = n) (hy : x.Before y) (r : Response) :
    v.CutTo n (y.respond r) (x.withCut (some n)) := by
  have hlength : x.trace.length = v.trace.length + n := by rw [h.trace, List.length_append, hn]
  have htrace : (y.respond r).trace = y.trace ++ [.respond r] := State.respond_trace (by simp [hy.cut]) r
  refine ⟨by simp [hy.pin, h.pin], by simp [hy.cap, h.cap], ?_, ⟨es, h.trace, h.outside.leftAs⟩, fun hshort => ?_⟩
  · rw [htrace, ← hlength]
    exact List.prefix_iff_eq_take.mp (hy.trace.trans (List.prefix_append _ _))
  · have hlonger := hy.longer
    rw [htrace, List.length_append, List.length_singleton] at hshort
    omega

/-- If the command ends without a reset, it ends with one, cut after `n` events. -/
def StepResult.CutAs (v : State) (n : Nat) (a b : StepResult) : Prop :=
  ∀ u, a = .next u → ∃ w, b = .next w ∧ v.CutTo n u w

theorem State.Completed.answer (h : v.Completed es x) (hn : es.length ≤ n) (r : Response) :
    StepResult.CutAs v n (.next (x.respond r)) (.next ((x.withCut (some n)).respond r)) := by
  intro u hu
  cases hu
  exact ⟨_, rfl, h.respond hn r⟩

theorem State.Completed.conclude_struck (h : v.Completed es x) (hn : es.length = n) {p : Progress}
    (hp : p.Ends x.Before x.Before) (r : Response) :
    StepResult.CutAs v n (p.conclude r) (.next (x.withCut (some n))) := by
  intro u hu
  rcases hp.conclude hu with ⟨y, hy, rfl⟩ | ⟨y, hy, rfl⟩ <;> exact ⟨_, rfl, h.struck hn hy _⟩

theorem Progress.CutAs.conclude {p q : Progress} (h : p.CutAs v n q) (r : Response) :
    StepResult.CutAs v n (p.conclude r) (q.conclude r) := by
  cases h with
  | ok h hn => exact h.answer hn r
  | failed h hn => exact h.answer hn .pinFault
  | struck h hn hp => exact h.conclude_struck hn hp r
  | hung q => exact nofun

theorem Progress.CutAs.concludeConstruct {p q : Progress} (h : p.CutAs v n q) :
    StepResult.CutAs v n p.concludeConstruct q.concludeConstruct := by
  cases h with
  | ok h hn => exact (h.internal (.enter .ready)).answer hn .ok
  | @failed es x h hn => exact (Operation.rollback.cutAs h hn).conclude (.pinSetupFailed x.acq)
  | @struck es x p h hn hp =>
    cases p with
    | ok y => exact h.conclude_struck hn (p := .ok (y.enter .ready)) (State.Before.internal hp (.enter .ready)) .ok
    | failed y => exact h.conclude_struck hn (Operation.rollback.staysBefore hp) (.pinSetupFailed y.acq)
    | abandoned y => exact hp.elim
    | hung => exact nofun
  | hung q => exact nofun

theorem Command.cutAs {g : State → StepResult} (hg : Command g) (h : v.Completed es x) (hn : es.length ≤ n) :
    StepResult.CutAs v n (g x) (g (x.withCut (some n))) := by
  cases hg with
  | conclude hf r => exact (hf.cutAs h hn).conclude r
  | concludeConstruct hf => exact (hf.cutAs h hn).concludeConstruct

end Completed

/-! ### The step -/

/-- A command cut after `n` events, replayed from the state it starts at with the PinSet and the capacity it ends
with. -/
theorem exec_cutTo {v u : State} {i : Instr} (n : Nat) (h : exec i (v.begin none) = .next u) :
    ∃ w, exec i (v.begin (some n)) = .next w ∧ State.CutTo { v with pin := u.pin, cap := u.cap } n u w := by
  obtain ⟨g, x, hg, hx, hexec⟩ := exec_command i (v.begin none)
  obtain ⟨ps, cap, hcompleted⟩ : ∃ ps cap, State.Completed { v with pin := ps, cap := cap } [] (x.withCut none) := by
    rcases hx with rfl | ⟨ps, m, rfl⟩
    · exact ⟨v.pin, v.cap, rfl, rfl, rfl, rfl, by simp [State.begin], ⟨rfl, rfl, rfl, rfl, rfl, rfl⟩, rfl⟩
    · exact ⟨ps, capacityOf m.toNat, rfl, rfl, rfl, rfl, by simp [State.begin], ⟨rfl, rfl, rfl, rfl, rfl, rfl⟩, rfl⟩
  obtain ⟨w, hw, hcut⟩ := hg.cutAs hcompleted (Nat.zero_le n) u ((hexec none).symm.trans h)
  obtain ⟨rfl, rfl⟩ : u.pin = ps ∧ u.cap = cap := ⟨hcut.pin, hcut.cap⟩
  exact ⟨w, (hexec (some n)).trans hw, hcut⟩

theorem step_submit_cut {s : State} {frame : List Byte} {rest : List HostMove} {n : Nat} {i : Instr}
    (hin : s.inbox = .submit frame (some n) :: rest) (hdecode : decode frame = .ok i) :
    step s = StepResult.thenReset (exec i (State.begin { s with inbox := rest } (some n))) := by
  simp only [step, State.fetch, hin, runFrame_of_decode_ok hdecode]
  rfl

/-- Settles O10: the cut run has completed the first `n` items of the trace, and leaves the pins and the load as their
replay does. -/
theorem resetCutsTheTrace : Obligations.ResetCutsTheTrace := by
  intro s u frame rest i n es hin hdecode hexec hu
  obtain ⟨w, hw, hcut⟩ := exec_cutTo (v := { s with inbox := rest }) n hexec
  have htrace : w.trace = s.trace ++ es.take n := by
    rw [hcut.trace, hu]
    exact List.take_length_add_append n
  obtain ⟨fs, hfs, hreplayed⟩ := hcut.replayed
  obtain rfl : fs = es.take n := List.append_cancel_left (hfs.symm.trans htrace)
  refine ⟨w.hardwareReset, ?_, rfl, htrace, hreplayed, fun h0 => ?_, fun hlong => ?_⟩
  · rw [step_submit_cut hin hdecode, hw]
    rfl
  · subst h0
    exact hreplayed
  · refine hcut.last ?_
    rw [hu, List.length_append]
    exact (Nat.add_le_add_left hlong _).trans_eq (Nat.add_assoc _ _ _).symm

end Sys2Proof.Machine
